-- ==== Sys2Proof/Word.lean ====
section
/-! DEFINITION. The widths of ALAW-FA's data (spec/00_scope.md R9, spec/30_encoding.md R60 to R63). -/

namespace Sys2Proof

/-- A Sample: a 16-bit two's-complement word (R60). -/
abbrev Sample := BitVec 16

/-- A byte: a codeword on FRAME_OUT (R61). -/
abbrev Byte := BitVec 8

/-- The PAYLOAD field of a command word (R63). -/
abbrev Payload := BitVec 16

/-- A command word as it crosses CMD_IN (R63). -/
abbrev CmdWord := BitVec 20

/-- One FRAME_OUT message: the codewords of one frame, byte j the frame's j-th sample (R31). -/
abbrev Message := List Byte

end Sys2Proof
end

