-- ==== Sys2Proof/Syntax.lean ====
section
/-! DEFINITION. The commands of ALAW-FA-CMD20 (spec/30_encoding.md R63 to R65), what a command
word decodes to (R67), the fault codes' names (spec/60_exceptions.md R131), the form of an
opcode-table row, and the assembler's lines (R69, R70). -/

namespace Sys2Proof

/-- One constructor per row of spec/opcode_table.json, each with its whole PAYLOAD as operand,
the reserved bits of STOP and SEGRD among it: "the fault rules for reserved payloads ... are
part of each command's meaning" (spec/30_encoding.md). -/
inductive Instr where
  /-- START n, n = uint16(PAYLOAD) (R100). -/
  | start (n : Payload)
  /-- PUSH s, s = sint16(PAYLOAD) (R101). -/
  | push (s : Payload)
  /-- STOP; PAYLOAD must be 0 (R105). -/
  | stop (payload : Payload)
  /-- ENC s, s = sint16(PAYLOAD) (R85). -/
  | enc (s : Payload)
  /-- SEGRD i, i = PAYLOAD[6:0]; PAYLOAD[15:7] must be 0 (R86). -/
  | segrd (payload : Payload)
  deriving DecidableEq, Repr

/-- The command faults by name (R131). Each is an effect on ERR after which the block goes on
(R130): none of them stops the machine. -/
inductive CommandFault where
  /-- 0x01 RESERVED_OPCODE: any word with OP = 0x0 or 0x6..0xF. -/
  | reservedOpcode
  /-- 0x02 START_ACTIVE: START with PHASE = Active. -/
  | startActive
  /-- 0x03 BAD_FRAME_SIZE: START with n = 0 or n > FRAME_MAX. -/
  | badFrameSize
  /-- 0x04 RESERVED_PAYLOAD: STOP with PAYLOAD != 0, SEGRD with PAYLOAD[15:7] != 0. -/
  | reservedPayload
  deriving DecidableEq, Repr

/-- "Every one of the 2^20 command words decodes to exactly one of two things: one of the five
commands with its operand, or a fault with a code" (R67). -/
inductive Decoded where
  | command (i : Instr)
  | illegal (f : CommandFault)
  deriving DecidableEq, Repr

/-- A row of spec/opcode_table.json: it matches the word c when c AND mask = pattern (R67). -/
structure OpcodeRow where
  mnemonic : String
  pattern  : CmdWord
  mask     : CmdWord
  deriving DecidableEq, Repr

/-- A line of the assembler (R69, R70), its numbers as written. -/
inductive AsmLine where
  /-- `START n`, n a number. -/
  | start (n : Int)
  /-- `PUSH s`, s a signed decimal number. -/
  | push (s : Int)
  /-- `PUSH 0xHHHH`, read as two's complement. -/
  | pushHex (s : Sample)
  /-- `STOP`. -/
  | stop
  /-- `ENC s`, s a signed decimal number. -/
  | enc (s : Int)
  /-- `ENC 0xHHHH`, read as two's complement. -/
  | encHex (s : Sample)
  /-- `SEGRD i`, i a number. -/
  | segrd (i : Int)
  /-- `.word 0xHHHHH`, a raw command word. -/
  | word (c : CmdWord)
  /-- `RESET`, an assertion of RST_IN. -/
  | reset
  /-- `PUSHB s_0, ..., s_(k-1)`, one capture block (R70). R69 has no PUSHB line, so how its
  samples are written is open: here signed decimal numbers only, THE MODEL'S CHOICE (DESIGN
  CHOICE, assumption log 22). -/
  | pushb (ss : List Int)
  deriving DecidableEq, Repr

end Sys2Proof
end

