-- ==== Sys2Proof/WellFormed.lean ====
section
/-! DEFINITION. The commands whose words are legal: the reserved payload bits of STOP and SEGRD
are 0 (spec/30_encoding.md R65, R66). "Every payload of PUSH and ENC is legal", and START's
operand is checked by value at execution (R66). -/

namespace Sys2Proof

/-- The command's word is no illegal encoding of R66. -/
def Instr.wellFormed : Instr → Bool
  | .start _ => true
  | .push _ => true
  | .stop payload => payload == 0
  | .enc _ => true
  | .segrd payload => payload.extractLsb' 7 9 == 0

end Sys2Proof
end

