-- ==== Sys2Proof/Decode.lean ====
section
/-! DEFINITION. Decoding a command word (spec/30_encoding.md R63 to R67), and after it the
encoder and the opcode table itself. -/

namespace Sys2Proof

/-- OP, bits 19:16 of a command word (R63). -/
def opField (c : CmdWord) : BitVec 4 := c.extractLsb' 16 4

/-- PAYLOAD, bits 15:0 of a command word (R63). -/
def payloadField (c : CmdWord) : Payload := c.extractLsb' 0 16

/-- PAYLOAD[15:7], the bits that SEGRD reserves (R65). -/
def segrdReserved (p : Payload) : BitVec 9 := p.extractLsb' 7 9

/-- The decoder: the OP check, then the reserved-payload check (R64, R66, R67). -/
def decode (c : CmdWord) : Decoded :=
  let op := opField c
  let p := payloadField c
  if op = 0x1#4 then .command (.start p)
  else if op = 0x2#4 then .command (.push p)
  else if op = 0x3#4 then (if p = 0 then .command (.stop p) else .illegal .reservedPayload)
  else if op = 0x4#4 then .command (.enc p)
  else if op = 0x5#4 then
    (if segrdReserved p = 0 then .command (.segrd p) else .illegal .reservedPayload)
  else .illegal .reservedOpcode

/-- The opcode of a command (R64). -/
def Instr.opcode : Instr → BitVec 4
  | .start _ => 0x1#4
  | .push _ => 0x2#4
  | .stop _ => 0x3#4
  | .enc _ => 0x4#4
  | .segrd _ => 0x5#4

/-- The PAYLOAD of a command (R65). -/
def Instr.payload : Instr → Payload
  | .start n => n
  | .push s => s
  | .stop payload => payload
  | .enc s => s
  | .segrd payload => payload

/-- The mnemonic of a command (R64). -/
def Instr.mnemonic : Instr → String
  | .start _ => "START"
  | .push _ => "PUSH"
  | .stop _ => "STOP"
  | .enc _ => "ENC"
  | .segrd _ => "SEGRD"

/-- The encoder: OP in bits 19:16 over PAYLOAD in bits 15:0 (R63). -/
def encode (i : Instr) : CmdWord := i.opcode ++ i.payload

/-- The rows of spec/opcode_table.json. -/
def opcodeTable : List OpcodeRow :=
  [ ⟨"START", 0x10000#20, 0xF0000#20⟩,
    ⟨"PUSH", 0x20000#20, 0xF0000#20⟩,
    ⟨"STOP", 0x30000#20, 0xFFFFF#20⟩,
    ⟨"ENC", 0x40000#20, 0xF0000#20⟩,
    ⟨"SEGRD", 0x50000#20, 0xFFF80#20⟩ ]

/-- "A row matches when (c & mask) == match" (R67). -/
def OpcodeRow.covers (r : OpcodeRow) (c : CmdWord) : Bool := c &&& r.mask == r.pattern

/-- The word on a 20-bit port from an instruction's bits in the opcode table's numbering: the
low nbits of w, and none if they do not fit the 20 wires of CMD_IN (R31; assumption log 16). -/
def tableWord (nbits w : Nat) : Option CmdWord :=
  let v := w % 2 ^ nbits
  if v < 2 ^ 20 then some (BitVec.ofNat 20 v) else none

/-- The command the decoder reads from a word given in the opcode table's numbering. -/
def decodeTableWord (nbits w : Nat) : Option Instr :=
  match tableWord nbits w with
  | none => none
  | some c =>
    match decode c with
    | .command i => some i
    | .illegal _ => none

/-- PUSHB as its expansion: one PUSH per sample, in order (R70). -/
def pushb (ss : List Sample) : List Instr := ss.map Instr.push

end Sys2Proof
end

