-- ==== Sys2Proof/Config.lean ====
section
/-! DEFINITION. What the spec leaves to an implementation (spec/00_scope.md R10,
spec/93_implementation_defined.md), as constants without a value, and the one free value.
Nothing in Lean can evaluate an opaque constant, so a theorem holds for every value of it. -/

namespace Sys2Proof

/-- The order of a sample's two bytes on a byte-serial link (R10, R41, D5). -/
inductive ByteOrder where
  | little  -- the first byte of a pair is bits 7..0
  | big     -- the first byte of a pair is bits 15..8
  deriving DecidableEq, Repr, Inhabited

/-- FRAME_MAX less 256: any of 0 .. 65279 (assumption log 3). -/
opaque Config.frameMaxAbove : Fin 65280

/-- FRAME_MAX, the largest frame size START accepts and the depth of BUF:
256 <= FRAME_MAX <= 65535 (R10, D6, U7; assumption log 3). Irreducible, so that no unification
counts down its 256; its bounds are lemmas of Laws/Ops.lean. -/
@[irreducible] def Config.frameMax : Nat := Config.frameMaxAbove.val + 256

/-- SAMPLE_BYTE_ORDER (R10, R41, D5, U8; assumption log 18). -/
opaque Config.sampleByteOrder : ByteOrder

/-- AUTO_STOP_ON_CLOSED: whether the controller stops capture by itself when CONN is Closed
in the middle of a session (R10, R157, D21, U10; assumption log 10). -/
opaque Config.autoStopOnClosed : Bool

/-- SAMPLE_RATE, the capture source's rate: the controller requests its source at it (R155); no
rule of the block uses it (R10, D29, U9; assumption log 15). -/
opaque Config.sampleRate : Nat

/-- BLOCK_SIZE, the capture source's block length: the controller requests its source at it
(R155); no rule of the block uses it (R10, D29, U9; assumption log 15, 25). -/
opaque Config.blockSize : Nat

/-- FREE VALUE: what an entry of BUF holds that no PUSH has written since the last reset
("unspecified (any value)", R170, U1; assumption log 1). The first argument is the draw,
which every reset advances, the second the entry. -/
opaque Config.bufOpen : Nat → Nat → Sample

end Sys2Proof
end

