-- ==== Sys2Proof/Machine/State.lean ====
section
/-! DEFINITION. The state of ALAW-FA (spec/10_state.md R20 to R28, R31) and of the agents around
it (spec/60_exceptions.md R150 to R157), as plain data, and the state after reset
(spec/70_reset_and_hazards.md R170 to R173). -/

namespace Sys2Proof.Machine

/-- PHASE (R22): 0 is Idle, 1 is Active. -/
inductive Phase where
  | idle
  | active
  deriving DecidableEq, Repr

/-- CONN, the Transport Session's ConnectionState (R151). -/
inductive Conn where
  | connecting
  | opened      -- the spec's Open
  | closing
  | closed
  deriving DecidableEq, Repr

/-- CTRL, the Capture Controller's state (R155). -/
inductive Ctrl where
  | idle
  | capturing
  deriving DecidableEq, Repr

/-- What start(config) asks of the platform: an audio source "at the configured sample rate and
block size", for a session of the configured frame size (R155). -/
structure SourceRequest where
  frameSize  : Payload
  sampleRate : Nat
  blockSize  : Nat
  deriving DecidableEq, Repr

/-- A step of an environment agent: each is free to fall between any two steps of the block
(R153, R160). -/
inductive EnvEvent where
  /-- start(config) is called, n the configured frame size (R155). -/
  | startCall (n : Payload)
  /-- The platform answers the pending acquisition: the audio source is granted or refused (R155). -/
  | acquired (granted : Bool)
  /-- The platform calls back with one capture block, which the controller delivers as a PUSHB
  (R141, R155; assumption log 25). -/
  | audioCallback (block : List Sample)
  /-- stop() is called (R156). -/
  | stopCall
  /-- The capture source terminates; it reaches the block as STOP (R106, R156). -/
  | sourceEnded
  /-- The controller looks at CONN and may find it Closed in the middle of a session (R157). -/
  | seesClosed
  /-- open(target) is called on the transport (R151). -/
  | openCall
  /-- The transport is established (R151). -/
  | established
  /-- The transport fails: failure to establish from Connecting, abrupt failure from Open (R151). -/
  | connFailed
  /-- close() is called on the transport (R151). -/
  | closeCall
  /-- The underlying transport confirms the close (R151). -/
  | closeConfirmed
  /-- The oldest message in flight arrives (R154). -/
  | delivered
  /-- The oldest message in flight is lost (R154). -/
  | lost
  deriving DecidableEq, Repr

/-- What the outside presents in one step (R31, R41, R136, R160). -/
inductive Input where
  /-- A command word on CMD_IN. -/
  | command (c : CmdWord)
  /-- The next command the controller has issued is accepted on CMD_IN (R155, R156). -/
  | issued
  /-- The next sample of the capture blocks delivered is accepted on CMD_IN, as its PUSH (R70,
  R155; assumption log 25). -/
  | blockSample
  /-- A PUSH whose sample a byte-serial link delivers as two bytes, in arrival order (R41). -/
  | serialSample (first second : Byte)
  /-- RST_IN is asserted, with the word that stands on CMD_IN in the same step, if any (R136). -/
  | reset (c : Option CmdWord)
  /-- A step of an environment agent. -/
  | env (e : EnvEvent)
  deriving DecidableEq, Repr

/-- The environment agents' state (R150 to R157, R173). -/
structure Env where
  /-- CONN (R151). -/
  conn : Conn
  /-- The current connection instance failed to establish (R151, R157; assumption log 10). -/
  establishFailed : Bool
  /-- CTRL (R155). -/
  ctrl : Ctrl
  /-- The audio source is held (R155, R156, R158). -/
  source : Bool
  /-- The request of a start(config) whose acquisition is pending (R155, R156). -/
  acquiring : Option SourceRequest
  /-- Command words the controller has issued and the block has not accepted yet, oldest first
  (R155, R156; assumption log 12). -/
  outbox : List CmdWord
  /-- Samples of the capture blocks that audio callbacks have delivered and the block has not
  accepted yet, in capture order (R155, R137; assumption log 25). -/
  captured : List Sample
  /-- Every message the FRAME_OUT consumer has taken, oldest first (R150). -/
  taken : List Message
  /-- Every message it has transmitted, oldest first (R152). -/
  sent : List Message
  /-- Transmitted messages that have neither arrived nor been lost, oldest first (R154). -/
  inFlight : List Message
  /-- Messages that have arrived, in arrival order (R154). -/
  arrived : List Message
  /-- How many errors the controller has reported (R155, R157; their content is out of scope, R8). -/
  reports : Nat
  deriving DecidableEq, Repr

/-- The sample buffer BUF (R25), the block's only writable store (R40), as (index, sample)
pairs: indices strictly rising, an index listed exactly when a PUSH has written the entry since
the last reset (assumption log 1, 14). -/
abbrev Memory := List (Nat × Sample)

/-- The canonical form of BUF: indices strictly rising, each an entry that BUF has. An unlisted
entry has no value of its own, so no listed one can repeat it. -/
abbrev Memory.wf (m : Memory) : Prop :=
  m.Pairwise (fun a b => a.1 < b.1) ∧ ∀ e ∈ m, e.1 < Config.frameMax

/-- The state: the block's registers and storage, its ports, and the agents around it. The
Companding Table SEGLUT is read only and stands in Machine/Companding.lean (assumption log 13). -/
structure State where
  /-- PHASE (R22). -/
  phase : Phase
  /-- FRAMESIZE (R23). -/
  frameSize : BitVec 16
  /-- FILL (R24). -/
  fill : BitVec 16
  /-- BUF (R25). -/
  buf : Memory
  /-- The model's own counter: which draw of `Config.bufOpen` BUF's unwritten entries hold
  (R170, U1; assumption log 1). -/
  bufDraw : Nat
  /-- RES (R26). -/
  res : Byte
  /-- ERR (R27). -/
  err : Byte
  /-- FRAME_OUT (R31): messages emitted and not yet taken by the consumer, oldest first. The
  consumer takes every message in its emitting step (R150), so this is empty between steps. -/
  frameOut : List Message
  /-- CMD_IN, RST_IN and the agents' schedule: what the coming steps present, next first
  (R31, R153, R160; assumption log 4). -/
  inputs : List Input
  /-- The environment agents (R34: the block neither reads nor writes them). -/
  env : Env
  deriving DecidableEq, Repr

/-- What stops the machine with a fault: NOTHING. The spec's faults are command faults, whose
whole effect is on ERR and after which "the block then takes the next command as usual" (R130):
they are next states (`CommandFault`). Having no constructor is safe: no step of the spec ends
here (R160; assumption log 24). -/
inductive Fault : Type
  deriving DecidableEq, Repr

/-- What the model has no meaning for. -/
inductive Refusal where
  /-- An instruction without a meaning yet: raised by an arm of exec that rejects it by name.
  Safe (the model stops). No arm does so: all five commands have their meaning. -/
  | notModelled (mnemonic : String)
  deriving DecidableEq, Repr

/-- The agents at the start: CTRL = Idle, CONN = Closed (R173, D20), nothing held, issued,
taken or transmitted (assumption log 7). -/
def Env.reset : Env where
  conn := .closed
  establishFailed := false
  ctrl := .idle
  source := false
  acquiring := none
  outbox := []
  captured := []
  taken := []
  sent := []
  inFlight := []
  arrived := []
  reports := 0

/-- The machine right after reset (R170 to R173): waiting for its first command, with nothing
presented yet. -/
def State.reset : State where
  phase := .idle
  frameSize := 0
  fill := 0
  buf := []
  bufDraw := 0
  res := 0x00
  err := 0x00
  frameOut := []
  inputs := []
  env := Env.reset

end Sys2Proof.Machine
end

