-- ==== Sys2Proof/Machine/Ops.lean ====
section
/-! DEFINITION. The named operations over the registers, BUF, FRAME_OUT and the schedule
(spec/00_scope.md R14), taking a command fault (spec/60_exceptions.md R130 to R132) and reset
(spec/70_reset_and_hazards.md R170). There is no return from a fault: "There is no return from
a fault and no nesting of faults" (R138). -/

namespace Sys2Proof.Machine

/-! ### Writing a register -/

/-- `PHASE <- v` (R22). -/
def State.setPhase (s : State) (v : Phase) : State := { s with phase := v }

/-- `FRAMESIZE <- v` (R23). -/
def State.setFrameSize (s : State) (v : BitVec 16) : State := { s with frameSize := v }

/-- `FILL <- v` (R24). -/
def State.setFill (s : State) (v : BitVec 16) : State := { s with fill := v }

/-- BUF as a whole (R25). -/
def State.setBuf (s : State) (v : Memory) : State := { s with buf := v }

/-- The draw of BUF's unspecified contents (R170, U1). -/
def State.setBufDraw (s : State) (v : Nat) : State := { s with bufDraw := v }

/-- `RES <- v` (R26). -/
def State.setRes (s : State) (v : Byte) : State := { s with res := v }

/-- `ERR <- v` (R27). -/
def State.setErr (s : State) (v : Byte) : State := { s with err := v }

/-- The messages on FRAME_OUT (R31). -/
def State.setFrameOut (s : State) (v : List Message) : State := { s with frameOut := v }

/-- What the coming steps present (R31). -/
def State.setInputs (s : State) (v : List Input) : State := { s with inputs := v }

/-- The environment agents (R34). -/
def State.setEnv (s : State) (v : Env) : State := { s with env := v }

/-! ### BUF -/

/-- The sample that a write since the last reset left in entry i. -/
def Memory.lookup : Memory → Nat → Option Sample
  | [], _ => none
  | (k, v) :: m, i => if k = i then some v else lookup m i

/-- The list with entry i listed as v, at i's place in the rising order. -/
def Memory.insert : Memory → Nat → Sample → Memory
  | [], i, v => [(i, v)]
  | (k, w) :: m, i, v =>
    if i < k then (i, v) :: (k, w) :: m
    else if i = k then (i, v) :: m
    else (k, w) :: insert m i v

/-- `BUF[i] <- v` (R14, R25). BUF has the entries 0 .. FRAME_MAX - 1, and a write to another
index changes nothing; no state that R33 admits makes one (assumption log 2). -/
def Memory.store (m : Memory) (i : Nat) (v : Sample) : Memory :=
  if i < Config.frameMax then m.insert i v else m

/-- `BUF[i]` (R14, R25): what a PUSH wrote there since the last reset, else a free value
(R170, U1; assumption log 1). -/
def bufRead (s : State) (i : Nat) : Sample :=
  (s.buf.lookup i).getD (Config.bufOpen s.bufDraw i)

/-- `BUF[i] <- v` on the state. -/
def bufWrite (s : State) (i : Nat) (v : Sample) : State := s.setBuf (s.buf.store i v)

/-- BUF[0 .. n-1], in order (R101, R104). -/
def bufPrefix (s : State) (n : Nat) : List Sample := (List.range n).map (bufRead s)

/-! ### FRAME_OUT -/

/-- `Emit(bytes)`: one message on FRAME_OUT (R14, R31, R44). -/
def emit (s : State) (m : Message) : State := s.setFrameOut (s.frameOut ++ [m])

/-! ### Command faults -/

/-- The fault codes (R131). -/
def faultCode : CommandFault → Byte
  | .reservedOpcode => 0x01
  | .startActive => 0x02
  | .badFrameSize => 0x03
  | .reservedPayload => 0x04

/-- ERR after a fault: "if ERR == 0x00 then ERR <- code" (R132). -/
def recordFault (err : Byte) (f : CommandFault) : Byte :=
  if err = 0x00 then faultCode f else err

/-- `raise CommandFault(code)`: the command has no effect but ERR's, and "the block then takes
the next command as usual" (R130, R132, R138). -/
def raiseFault (f : CommandFault) (s : State) : State := s.setErr (recordFault s.err f)

/-! ### Reset -/

/-- RST_IN asserted: one step that empties the block's registers (R170). BUF's contents are
then unspecified: nothing is listed and the draw advances (assumption log 1). No frame is
emitted, and the agents are not touched. -/
def resetBlock (s : State) : State :=
  (((((((s.setPhase .idle).setFill 0).setFrameSize 0).setRes 0x00).setErr 0x00).setBuf
    []).setBufDraw (s.bufDraw + 1))

end Sys2Proof.Machine
end

