-- ==== Sys2Proof/Machine/Operands.lean ====
section
/-! DEFINITION. Operand assembly (spec/30_encoding.md R60, R65, spec/00_scope.md R12) and the
samples of a byte-serial link (spec/20_memory.md R41). -/

namespace Sys2Proof.Machine

/-- uint16(PAYLOAD): START's n, zero-extended and unscaled (R65). -/
def uint16 (p : Payload) : Nat := p.toNat

/-- sint16(w): a sample's value in two's complement (R12, R60, R65). -/
def sint16 (w : Sample) : Int := w.toInt

/-- PAYLOAD[6:0]: SEGRD's table index (R65). -/
def tableIndex (p : Payload) : BitVec 7 := p.extractLsb' 0 7

/-- zext_8 of a table entry (R12, R86). -/
def zext8 (v : BitVec 3) : Byte := v.setWidth 8

/-- A frame size START accepts: 1 <= n <= FRAME_MAX (R100). -/
def frameSizeLegal (n : Payload) : Bool := 1 ≤ uint16 n && uint16 n ≤ Config.frameMax

/-- The sample that two bytes of a byte-serial link make, in SAMPLE_BYTE_ORDER (R41, D5;
assumption log 18). -/
def serialSample (first second : Byte) : Sample :=
  match Config.sampleByteOrder with
  | .little => second ++ first
  | .big => first ++ second

end Sys2Proof.Machine
end

