-- ==== Sys2Proof/Machine/Companding.lean ====
section
/-! DEFINITION. The Companding Table and the A-Law Encoder (spec/40_companding.md), with the
commands ENC and SEGRD. -/

namespace Sys2Proof.Machine

/-- SEGLUT[0..127], range by range as R80 lists it; entry 0 is decided as 1 (R80, D11). Read
only: no command and no reset changes it (R28; assumption log 13). -/
def seglut : List (BitVec 3) :=
  [1#3]
    ++ List.replicate 1 1#3
    ++ List.replicate 2 2#3
    ++ List.replicate 4 3#3
    ++ List.replicate 8 4#3
    ++ List.replicate 16 5#3
    ++ List.replicate 32 6#3
    ++ List.replicate 64 7#3

/-- `SEGLUT[i]` (R14). The table has all 128 entries, so the default is never read. -/
def readSeglut (i : BitVec 7) : BitVec 3 := seglut.getD i.toNat 0

/-- Step 1: the minimum is treated as -32767 (R84). -/
def clampMin (v : Int) : Int := if v = -32768 then -32767 else v

/-- Step 2: the sign term, 0x80 for a non-negative sample (R84, 90_conflicts.md C1). -/
def signTerm (v : Int) : Byte := if 0 ≤ v then 0x80 else 0x00

/-- Step 2: the magnitude (R84). -/
def magnitude (v : Int) : Nat := if 0 ≤ v then v.toNat else (-v).toNat

/-- Step 3: "saturate, do not wrap" (R84). -/
def saturate (mag : Nat) : Nat := if 32635 < mag then 32635 else mag

/-- The table index of a magnitude, `(mag >> 8) & 0x7F` (R82, R84). -/
def magIndex (mag : Nat) : BitVec 7 := BitVec.ofNat 7 ((mag >>> 8) &&& 0x7F)

/-- Step 4: the companded value of a magnitude, with the table's contents as an argument
(R84, 90_conflicts.md C3). -/
def compandWith (lut : BitVec 7 → BitVec 3) (mag : Nat) : Nat :=
  if 256 ≤ mag then
    let e := (lut (magIndex mag)).toNat
    let m := (mag >>> (e + 3)) &&& 0x0F
    (e <<< 4) ||| m
  else mag >>> 4

/-- AlawEncode with the table's contents as an argument (R84). -/
def alawEncodeWith (lut : BitVec 7 → BitVec 3) (s : Sample) : Byte :=
  let v := clampMin (sint16 s)
  BitVec.ofNat 8 (compandWith lut (saturate (magnitude v))) ^^^ signTerm v ^^^ 0x55

/-- AlawEncode: one sample to one codeword, reading SEGLUT and no other state (R83, R84). -/
def alawEncode (s : Sample) : Byte := alawEncodeWith readSeglut s

/-- EncodeFrame: lane-wise, in order (R93). -/
def encodeFrame (f : List Sample) : Message := f.map alawEncode

/-- ENC: `RES <- AlawEncode(PAYLOAD)`, in both phases (R85). -/
def execEnc (s : Payload) (st : State) : Host.Outcome State Fault Refusal :=
  .next (st.setRes (alawEncode s))

/-- SEGRD: fault 4 for nonzero PAYLOAD[15:7], else `RES <- zext_8(SEGLUT[PAYLOAD[6:0]])` (R86). -/
def execSegrd (payload : Payload) (st : State) : Host.Outcome State Fault Refusal :=
  if segrdReserved payload ≠ 0 then .next (raiseFault .reservedPayload st)
  else .next (st.setRes (zext8 (readSeglut (tableIndex payload))))

end Sys2Proof.Machine
end

