-- ==== Sys2Proof/Machine/FrameAssembler.lean ====
section
/-! DEFINITION. The Frame Assembler (spec/41_frame_assembler.md): the commands START, PUSH and
STOP, and the frame emission that PUSH triggers. -/

namespace Sys2Proof.Machine

/-- START: fault 2 in Active, fault 3 for n = 0 or n > FRAME_MAX, else a session of frame size
n with nothing buffered (R100, R133). -/
def execStart (n : Payload) (st : State) : Host.Outcome State Fault Refusal :=
  if st.phase = .active then .next (raiseFault .startActive st)
  else if frameSizeLegal n then .next (((st.setFrameSize n).setFill 0).setPhase .active)
  else .next (raiseFault .badFrameSize st)

/-- "FILL + 1 == FRAMESIZE", exact on integers (R12, R101, R103). -/
def frameCompletes (st : State) : Bool := st.fill.toNat + 1 == st.frameSize.toNat

/-- Emission: EncodeFrame(BUF[0 .. FRAMESIZE-1]) as one message, and FILL <- 0 (R101, R104). -/
def emitFrame (st : State) : State :=
  (emit st (encodeFrame (bufPrefix st st.frameSize.toNat))).setFill 0

/-- PUSH: ignored in Idle (R102); in Active the sample goes to BUF[FILL], and either the frame
is emitted in this step or FILL advances (R101). -/
def execPush (s : Payload) (st : State) : Host.Outcome State Fault Refusal :=
  match st.phase with
  | .idle => .next st
  | .active =>
    let st' := bufWrite st st.fill.toNat s
    if frameCompletes st' then .next (emitFrame st')
    else .next (st'.setFill (st'.fill + 1))

/-- STOP: fault 4 for a nonzero PAYLOAD; no effect in Idle; in Active the partial frame is
discarded, never encoded, and the session closes (R105, R106). -/
def execStop (payload : Payload) (st : State) : Host.Outcome State Fault Refusal :=
  if payload ≠ 0 then .next (raiseFault .reservedPayload st)
  else
    match st.phase with
    | .idle => .next st
    | .active => .next ((st.setFill 0).setPhase .idle)

end Sys2Proof.Machine
end

