-- ==== Sys2Proof/Machine/Dispatch.lean ====
section
/-! DEFINITION. One arm per constructor of Instr: the commands' meanings (spec/30_encoding.md R64). -/

namespace Sys2Proof.Machine

def exec (i : Instr) (s : State) : Host.Outcome State Fault Refusal :=
  match i with
  | .start n => Sys2Proof.Machine.execStart n s
  | .push p => Sys2Proof.Machine.execPush p s
  | .stop p => Sys2Proof.Machine.execStop p s
  | .enc p => Sys2Proof.Machine.execEnc p s
  | .segrd p => Sys2Proof.Machine.execSegrd p s

end Sys2Proof.Machine
end

