-- ==== Sys2Proof/Machine/Pipeline.lean ====
section
/-! DEFINITION. The environment agents' contracts (spec/60_exceptions.md R150 to R159): the
Transport Session, the FRAME_OUT consumer's send gate, delivery, and the Capture Controller.
None of these operations touches the block (R34). -/

namespace Sys2Proof.Machine

/-! ### Transport Session -/

/-- `open(target)`: a new connection instance, Connecting at once (R151; assumption log 9). -/
def Env.openConn (e : Env) : Env := { e with conn := .connecting, establishFailed := false }

/-- Establishment: Connecting to Open (R151). -/
def Env.establish (e : Env) : Env :=
  match e.conn with
  | .connecting => { e with conn := .opened }
  | .opened | .closing | .closed => e

/-- Failure: from Connecting or Open to Closed directly; from Connecting it is a transport
establishment error (R151, R157). -/
def Env.failConn (e : Env) : Env :=
  match e.conn with
  | .connecting => { e with conn := .closed, establishFailed := true }
  | .opened => { e with conn := .closed }
  | .closing | .closed => e

/-- `close()`: from Open or Connecting to Closing, else no effect (R151, 90_conflicts.md C6). -/
def Env.closeConn (e : Env) : Env :=
  match e.conn with
  | .connecting | .opened => { e with conn := .closing }
  | .closing | .closed => e

/-- The close is confirmed: Closing to Closed (R151). -/
def Env.confirmClose (e : Env) : Env :=
  match e.conn with
  | .closing => { e with conn := .closed }
  | .connecting | .opened | .closed => e

/-! ### Delivery -/

/-- The oldest message in flight arrives; arrivals keep the send order (R154). -/
def Env.deliver (e : Env) : Env :=
  match e.inFlight with
  | [] => e
  | m :: ms => { e with inFlight := ms, arrived := e.arrived ++ [m] }

/-- The oldest message in flight is lost (R154). -/
def Env.lose (e : Env) : Env :=
  match e.inFlight with
  | [] => e
  | _ :: ms => { e with inFlight := ms }

/-! ### FRAME_OUT consumer -/

/-- The consumer takes one message and, by CONN in this step, transmits it whole or drops it
silently (R150, R152). -/
def Env.take (e : Env) (m : Message) : Env :=
  match e.conn with
  | .opened =>
    { e with taken := e.taken ++ [m], sent := e.sent ++ [m], inFlight := e.inFlight ++ [m] }
  | .connecting | .closing | .closed => { e with taken := e.taken ++ [m] }

/-- The end of a step: the consumer has taken every message that the step emitted (R150). -/
def consumeFrames (s : State) : State :=
  (s.setEnv (s.frameOut.foldl Env.take s.env)).setFrameOut []

/-! ### Capture Controller -/

/-- The controller issues a command (R155, R156; assumption log 12). -/
def Env.issue (e : Env) (i : Instr) : Env := { e with outbox := e.outbox ++ [encode i] }

/-- A START command. -/
def isStart (i : Instr) : Bool := i.opcode == 0x1#4

/-- A word that decodes to a START command. -/
def isStartWord (c : CmdWord) : Bool :=
  match decode c with
  | .command i => isStart i
  | .illegal _ => false

/-- An audio callback delivers one block while the controller captures, in capture order (R155).
That it delivers nothing otherwise, with no source to call back, and that a block has any length,
BLOCK_SIZE or not (R42), are THE MODEL'S CHOICE (DESIGN CHOICE, assumption log 25). -/
def Env.deliverBlock (e : Env) (block : List Sample) : Env :=
  match e.ctrl with
  | .idle => e
  | .capturing => { e with captured := e.captured ++ block }

/-- The sample that may be presented next: the oldest delivered, but none while a START that the
controller has issued waits, since START comes before the samples (R174; assumption log 25). -/
def Env.readySample (e : Env) : Option Sample :=
  if e.outbox.any isStartWord then none else e.captured.head?

/-- The oldest delivered sample leaves: the block accepts it (assumption log 25). -/
def Env.dropSample (e : Env) : Env := { e with captured := e.captured.tail }

/-- stop(): releases the source or cancels the pending acquisition, closes the transport,
issues STOP, CTRL <- Idle; safe at any time and idempotent (R156). All of it in one step of the
agents (assumption log 21). Samples already delivered stay on their way (R137; assumption log
25). -/
def Env.controllerStop (e : Env) : Env :=
  ({ e.closeConn with source := false, acquiring := none, ctrl := .idle }).issue (.stop 0)

/-- A start(config) is accepted only when no session, acquisition, source, connection or block
on its way is left: "fully released ... before the next lifecycle start is accepted" (R156,
R179; assumption log 8). -/
def Env.startAccepted (e : Env) : Bool :=
  e.ctrl == .idle && e.acquiring.isNone && !e.source && e.conn == .closed && e.captured.isEmpty

/-- The request of a start(config) with frame size n, at SAMPLE_RATE and BLOCK_SIZE (R10, R155). -/
def sourceRequest (n : Payload) : SourceRequest where
  frameSize := n
  sampleRate := Config.sampleRate
  blockSize := Config.blockSize

/-- start(config): the audio source is requested (R155). R174 issues START n with 1 <= n <=
FRAME_MAX only, and the spec does not say what start(config) does with a configured frame size
outside that range: that any 16-bit n is accepted here is THE MODEL'S CHOICE (DESIGN CHOICE,
assumption log 27). -/
def Env.controllerStart (e : Env) (n : Payload) : Env :=
  if e.startAccepted then { e with acquiring := some (sourceRequest n) } else e

/-- The platform's answer to a pending request: granted, the controller opens the transport,
issues START n and enters Capturing; refused, it reports the error and remains Idle, with no
retry. A request that stop() has cancelled has no answer to take (R155, R156, R158). R174 gives
the order acquire, open, START and does not say whether another agent's step may fall between
them: that grant, open, issuing START and entering Capturing are ONE step of the agents is THE
MODEL'S CHOICE (DESIGN CHOICE, assumption log 26); START's acceptance is a later step (log 12). For an n outside 1 .. FRAME_MAX the grant does the
same: START n is issued, the block answers it with fault 3 (R100), and the controller is in
Capturing (DESIGN CHOICE, log 27). -/
def Env.acquisition (e : Env) (granted : Bool) : Env :=
  match e.acquiring with
  | none => e
  | some r =>
    if granted then
      ({ e.openConn with acquiring := none, source := true, ctrl := .capturing }).issue
        (.start r.frameSize)
    else { e with acquiring := none, reports := e.reports + 1 }

/-- The capture source terminates during a session: it reaches the block as STOP, by stop()
(R106, R156). -/
def Env.captureEnds (e : Env) : Env :=
  match e.ctrl with
  | .idle => e
  | .capturing => e.controllerStop

/-- The controller finds CONN Closed during a session: after a transport establishment error it
runs stop(); after a drop it does so when AUTO_STOP_ON_CLOSED holds, else capture continues
(R157; assumption log 10). -/
def Env.watchClosed (e : Env) : Env :=
  if e.ctrl == .capturing && e.conn == .closed && (e.establishFailed || Config.autoStopOnClosed)
  then e.controllerStop else e

/-- One step of an agent (R151, R154 to R157). -/
def Env.apply (e : Env) : EnvEvent → Env
  | .startCall n => e.controllerStart n
  | .acquired granted => e.acquisition granted
  | .audioCallback block => e.deliverBlock block
  | .stopCall => e.controllerStop
  | .sourceEnded => e.captureEnds
  | .seesClosed => e.watchClosed
  | .openCall => e.openConn
  | .established => e.establish
  | .connFailed => e.failConn
  | .closeCall => e.closeConn
  | .closeConfirmed => e.confirmClose
  | .delivered => e.deliver
  | .lost => e.lose

end Sys2Proof.Machine
end

