-- ==== Sys2Proof/Machine/Accept.lean ====
section
/-! DEFINITION. What one step of the machine does with what the outside presents: a command word
(spec/30_encoding.md R67), a reset (spec/60_exceptions.md R136) or a step of an agent (R153). -/

namespace Sys2Proof.Machine

/-- A command word: its command's meaning, or its illegal encoding's fault (R66, R67). -/
def runWord (c : CmdWord) (s : State) : Host.Outcome State Fault Refusal :=
  match decode c with
  | .command i => exec i s
  | .illegal f => .next (raiseFault f s)

/-- The end of a block step: the consumer takes what the step emitted (R150). -/
def handOff (o : Host.Outcome State Fault Refusal) : Host.Outcome State Fault Refusal :=
  match o with
  | .next t => .next (consumeFrames t)
  | .fault r => .fault r
  | .refused r => .refused r

/-- One input. A reset beats a command of the same step, which is not executed (R136). -/
def acceptInput (x : Input) (s : State) : Host.Outcome State Fault Refusal :=
  match x with
  | .command c => handOff (runWord c s)
  | .serialSample first second => handOff (runWord (encode (.push (serialSample first second))) s)
  | .issued =>
    match s.env.outbox with
    | [] => .next s
    | c :: rest => handOff (runWord c (s.setEnv { s.env with outbox := rest }))
  | .blockSample =>
    match s.env.readySample with
    | none => .next s
    | some p => handOff (runWord (encode (.push p)) (s.setEnv s.env.dropSample))
  | .reset _ => .next (resetBlock s)
  | .env e => .next (s.setEnv (s.env.apply e))

/-- One step: the next input of the schedule, and with nothing presented the block waits
(R15, R48, R171; assumption log 5). -/
def nextStep (s : State) : Host.Outcome State Fault Refusal :=
  match s.inputs with
  | [] => .next s
  | x :: rest => acceptInput x (s.setInputs rest)

/-- The word that an instruction of the opcode table presents on CMD_IN: the low 20 of its low
nbits (assumption log 16). -/
def presentedWord (nbits w : Nat) : CmdWord := BitVec.ofNat 20 (w % 2 ^ nbits)

/-- A list of commands, one step each, stopping where one does not answer a next state
(R48, R70). -/
def execAll : List Instr → State → Host.Outcome State Fault Refusal
  | [], s => .next s
  | i :: is, s =>
    match exec i s with
    | .next t => execAll is t
    | .fault r => .fault r
    | .refused r => .refused r

end Sys2Proof.Machine
end

