-- ==== Sys2Proof/Machine/Assembler.lean ====
section
/-! DEFINITION. The assembler (spec/30_encoding.md R69, R70): what each line presents to the
block, or none where "an assembler refuses any operand outside its range". -/

namespace Sys2Proof.Machine

/-- A command on CMD_IN. -/
def present (i : Instr) : Input := .command (encode i)

/-- A signed decimal sample, -32768..32767, as its word (R12, R69). -/
def asmSample (s : Int) : Option Sample :=
  if -32768 ≤ s ∧ s ≤ 32767 then some (BitVec.ofInt 16 s) else none

/-- An unsigned operand, 0..max, as a payload (R69). -/
def asmNumber (max n : Int) : Option Payload :=
  if 0 ≤ n ∧ n ≤ max then some (BitVec.ofInt 16 n) else none

/-- The samples of a PUSHB line, refused whole if one is out of range. -/
def asmSamples : List Int → Option (List Sample)
  | [] => some []
  | s :: ss =>
    match asmSample s, asmSamples ss with
    | some w, some ws => some (w :: ws)
    | _, _ => none

/-- What a line presents, in order (R69, R70). -/
def assemble : AsmLine → Option (List Input)
  | .start n => (asmNumber 65535 n).map fun p => [present (.start p)]
  | .push s => (asmSample s).map fun p => [present (.push p)]
  | .pushHex s => some [present (.push s)]
  | .stop => some [present (.stop 0)]
  | .enc s => (asmSample s).map fun p => [present (.enc p)]
  | .encHex s => some [present (.enc s)]
  | .segrd i => (asmNumber 127 i).map fun p => [present (.segrd p)]
  | .word c => some [.command c]
  | .reset => some [.reset none]
  | .pushb ss => (asmSamples ss).map fun ws => (pushb ws).map present

end Sys2Proof.Machine
end

