-- ==== Sys2Proof/Machine/Step.lean ====
section
/-! DEFINITION. One step of the machine, and an opcode-table word presented to it. -/

namespace Sys2Proof.Machine

/-- One step (R15): see `nextStep`. -/
def step (s : State) : Host.Outcome State Fault Refusal := nextStep s

/-- The state with an opcode-table word presented on CMD_IN in the very next step, ahead of what
the schedule held (assumption log 4, 16). -/
def State.withFetchWord (s : State) (nbits w : Nat) : State :=
  s.setInputs (.command (presentedWord nbits w) :: s.inputs)

end Sys2Proof.Machine
end

