-- ==== Sys2Proof/Machine/Flags.lean ====
section
/-! DEFINITION. The status bits and the level outputs (spec/10_state.md R29 to R31). ALAW-FA has
no condition codes or arithmetic flags: the only status bits are PHASE and ERR (R30). -/

namespace Sys2Proof.Machine

/-- PHASE as its bit: 0 Idle, 1 Active (R22). -/
def phaseBit : Phase → BitVec 1
  | .idle => 0
  | .active => 1

/-- STATUS = FILL[31:16], ERR[15:8], 0 [7:1], PHASE[0] (R29); the port STATUS_OUT (R31). -/
def status (s : State) : BitVec 32 := s.fill ++ s.err ++ (0 : BitVec 7) ++ phaseBit s.phase

/-- The port RES_OUT (R31). -/
def resOut (s : State) : Byte := s.res

/-- The port FRAMESIZE_OUT (R31). -/
def frameSizeOut (s : State) : BitVec 16 := s.frameSize

end Sys2Proof.Machine
end

