-- ==== Sys2Proof/Safety.lean ====
section
/-! DEFINITION. The terms that claims about the machine use: which word a step presents to the
block, which fault the spec's check order gives it, the invariants of spec/10_state.md R33 and
of the agents, and the A-law expansion that serves as an oracle. -/

namespace Sys2Proof.Machine

/-- The command word that the next step presents to the block, if it presents one. -/
def presented (s : State) : Option CmdWord :=
  match s.inputs with
  | .command c :: _ => some c
  | .serialSample first second :: _ => some (encode (.push (serialSample first second)))
  | .issued :: _ => s.env.outbox.head?
  | .blockSample :: _ => s.env.readySample.map fun p => encode (.push p)
  | .reset _ :: _ | .env _ :: _ | [] => none

/-- The next step is a reset. -/
def presentsReset (s : State) : Bool :=
  match s.inputs with
  | .reset _ :: _ => true
  | .command _ :: _ | .serialSample _ _ :: _ | .issued :: _ | .blockSample :: _ | .env _ :: _
  | [] => false

/-- The next step is a step of an environment agent. -/
def presentsEnv (s : State) : Bool :=
  match s.inputs with
  | .env _ :: _ => true
  | .command _ :: _ | .serialSample _ _ :: _ | .issued :: _ | .blockSample :: _ | .reset _ :: _
  | [] => false

/-- The fault of a command word in a phase, in the order of R133: reserved OP (1), reserved
payload (4), START in Active (2), START size (3); the fields read as numbers. -/
def faultOf (c : CmdWord) (phase : Phase) : Option CommandFault :=
  let op := c.toNat / 65536
  let payload := c.toNat % 65536
  if op = 0 ∨ 6 ≤ op then some .reservedOpcode
  else if (op = 3 ∧ payload ≠ 0) ∨ (op = 5 ∧ 128 ≤ payload) then some .reservedPayload
  else if op = 1 ∧ phase = .active then some .startActive
  else if op = 1 ∧ (payload = 0 ∨ Config.frameMax < payload) then some .badFrameSize
  else none

/-- A STOP command. -/
def isStop (i : Instr) : Bool := i.opcode == 0x3#4

/-- An input that can neither start capture nor open a session: no call of start() and no
START word. -/
def Input.startsNothing : Input → Bool
  | .command c => !isStartWord c
  | .env (.startCall _) => false
  | .env _ => true
  | .issued => true
  | .blockSample => true
  | .serialSample _ _ => true
  | .reset _ => true

/-- The session invariant, the first two points of R33. -/
def SessionInv (s : State) : Prop :=
  (s.phase = .idle → s.fill = 0) ∧
  (s.phase = .active →
    1 ≤ s.frameSize.toNat ∧ s.frameSize.toNat ≤ Config.frameMax ∧ s.fill.toNat < s.frameSize.toNat)

/-- BUF keeps its canonical form, and every sample of the partial frame is one that a PUSH wrote
since the last reset (R25). -/
def BufferInv (s : State) : Prop :=
  Memory.wf s.buf ∧ ∀ i, i < s.fill.toNat → (s.buf.lookup i).isSome = true

/-- Nothing is captured and nothing can start capture: no session, no source, no acquisition
pending, no message on FRAME_OUT, no START waiting in the outbox and none to be presented
(R158). -/
structure Quiet (s : State) : Prop where
  phase_idle : s.phase = .idle
  no_frame : s.frameOut = []
  ctrl_idle : s.env.ctrl = .idle
  no_source : s.env.source = false
  none_pending : s.env.acquiring = none
  no_start_issued : ∀ c ∈ s.env.outbox, isStartWord c = false
  no_start_presented : ∀ x ∈ s.inputs, Input.startsNothing x = true

/-- What holds of the agents between any two steps: the source is held exactly while capturing
(R155, R156; assumption log 21, 26), an acquisition is pending only in Idle and only once every
sample of an earlier session has left (assumption log 8, 25), a failed establishment has left
CONN Closed (R151; assumption log 10), and arrivals with what is in flight keep the send order,
as what is sent keeps the order of emission (R152, R154). -/
structure EnvInv (e : Env) : Prop where
  source_iff : e.source = true ↔ e.ctrl = .capturing
  acquiring_idle : e.acquiring.isSome = true → e.ctrl = .idle
  acquiring_no_block : e.acquiring.isSome = true → e.captured = []
  failed_closed : e.establishFailed = true → e.conn = .closed
  delivery_order : (e.arrived ++ e.inFlight).Sublist e.sent
  sent_order : e.sent.Sublist e.taken

/-- CONN's place in the order Connecting, Open, Closing, Closed (R151). -/
def Conn.rank : Conn → Nat
  | .connecting => 0
  | .opened => 1
  | .closing => 2
  | .closed => 3

/-- The A-law expansion, NOT part of the block (R8): the test oracle that
spec/93_implementation_defined.md G1 supplies from general knowledge (PRESUMED, assumption log 23). -/
def alawDecode (b : Byte) : Int :=
  let t := b ^^^ 0x55
  let e := (t.extractLsb' 4 3).toNat
  let m := (t.extractLsb' 0 4).toNat
  let mag := if e = 0 then m * 16 + 8 else (m * 16 + 0x108) * 2 ^ (e - 1)
  if t.getLsbD 7 then (mag : Int) else -(mag : Int)

end Sys2Proof.Machine
end

