-- ==== Sys2Proof/Certificates/Slice0/Obligations.lean ====
section
/-! DEFINITION. What is claimed of the model, rule by rule of spec/. Each statement's docstring
names the rules it formalises; a clause that rests on a choice of the model's own names the
assumption log's entry. -/

open Sys2Proof Sys2Proof.Machine

/-! ### Encodings (spec/30_encoding.md) -/

/-- R63, R65, R67: a word decodes to a command exactly when the command is well formed and the
word is its encoding, so no bit of an encoding is dropped, in either direction. -/
def Obligations.DecodeEncodeAgree : Prop :=
  ∀ (c : CmdWord) (i : Instr), decode c = .command i ↔ (i.wellFormed = true ∧ encode i = c)

/-- R67: the decoder is the opcode table's: a command's own row covers its word and no other row
does, and a word decodes to a fault exactly when no row covers it. -/
def Obligations.DecodeMatchesOpcodeTable : Prop :=
  ∀ c : CmdWord,
    (∀ i, decode c = .command i →
      ∃ r ∈ opcodeTable, r.covers c = true ∧ r.mnemonic = i.mnemonic ∧
        ∀ r' ∈ opcodeTable, r'.covers c = true → r' = r) ∧
    ((∃ f, decode c = .illegal f) ↔ ∀ r ∈ opcodeTable, r.covers c = false)

/-- R66: which words are illegal at decoding, with which fault, the fields read as numbers; no
word has an execution-time fault at decoding. -/
def Obligations.IllegalWordFaults : Prop :=
  ∀ c : CmdWord,
    (decode c = .illegal .reservedOpcode ↔ c.toNat / 65536 = 0 ∨ 6 ≤ c.toNat / 65536) ∧
    (decode c = .illegal .reservedPayload ↔
      (c.toNat / 65536 = 3 ∧ c.toNat % 65536 ≠ 0) ∨
      (c.toNat / 65536 = 5 ∧ 128 ≤ c.toNat % 65536)) ∧
    decode c ≠ .illegal .startActive ∧ decode c ≠ .illegal .badFrameSize

/-- R71: the spec's example words decode to the commands they stand for. -/
def Obligations.ExampleWordsDecode : Prop :=
  decode 0x10100 = .command (.start 256) ∧
  decode 0x10005 = .command (.start 5) ∧
  decode 0x20000 = .command (.push 0) ∧
  decode 0x2FFFF = .command (.push (BitVec.ofInt 16 (-1))) ∧
  decode 0x28000 = .command (.push (BitVec.ofInt 16 (-32768))) ∧
  decode 0x27FFF = .command (.push (BitVec.ofInt 16 32767)) ∧
  decode 0x30000 = .command (.stop 0) ∧
  decode 0x40100 = .command (.enc 256) ∧
  decode 0x5007F = .command (.segrd 127) ∧
  decode 0x30001 = .illegal .reservedPayload ∧ faultCode .reservedPayload = 4 ∧
  decode 0x00000 = .illegal .reservedOpcode ∧ faultCode .reservedOpcode = 1

/-- R69: the assembler accepts a line exactly when its operands are in range, and then presents
the command with that operand; R70: PUSHB as its PUSH commands in order. R69 has no PUSHB line:
that a PUSHB line writes its samples as signed decimals only, in PUSH's range, is THE MODEL'S
CHOICE (DESIGN CHOICE, assumption log 22). -/
def Obligations.AssemblerRanges : Prop :=
  (∀ n : Int, ∀ x, assemble (.start n) = some x ↔
    0 ≤ n ∧ n ≤ 65535 ∧ x = [.command (encode (.start (BitVec.ofInt 16 n)))]) ∧
  (∀ s : Int, ∀ x, assemble (.push s) = some x ↔
    -32768 ≤ s ∧ s ≤ 32767 ∧ x = [.command (encode (.push (BitVec.ofInt 16 s)))]) ∧
  (∀ s : Int, ∀ x, assemble (.enc s) = some x ↔
    -32768 ≤ s ∧ s ≤ 32767 ∧ x = [.command (encode (.enc (BitVec.ofInt 16 s)))]) ∧
  (∀ i : Int, ∀ x, assemble (.segrd i) = some x ↔
    0 ≤ i ∧ i ≤ 127 ∧ x = [.command (encode (.segrd (BitVec.ofInt 16 i)))]) ∧
  (∀ ss : List Int, ∀ x, assemble (.pushb ss) = some x ↔
    (∀ s ∈ ss, -32768 ≤ s ∧ s ≤ 32767) ∧
      x = ss.map (fun s => Input.command (encode (.push (BitVec.ofInt 16 s))))) ∧
  (∀ w : Sample, assemble (.pushHex w) = some [.command (encode (.push w))] ∧
    assemble (.encHex w) = some [.command (encode (.enc w))]) ∧
  assemble .stop = some [.command (encode (.stop 0))] ∧
  (∀ c : CmdWord, assemble (.word c) = some [.command c]) ∧
  assemble .reset = some [.reset none]

/-! ### The Companding Table and the encoder (spec/40_companding.md) -/

/-- R80: the table's contents, and the magnitudes that read each exponent. -/
def Obligations.CompandingTableContents : Prop :=
  readSeglut 0 = 1 ∧
  (∀ i : BitVec 7, 1 ≤ i.toNat → (readSeglut i).toNat = Nat.log2 i.toNat + 1) ∧
  (∀ mag : Nat, 256 ≤ mag → mag ≤ 32635 →
    2 ^ ((readSeglut (magIndex mag)).toNat + 7) ≤ mag ∧
    mag < 2 ^ ((readSeglut (magIndex mag)).toNat + 8))

/-- R82: the encoder reads the table at mag[14:8], which is never 0, so it gives the same byte
with any entry 0. -/
def Obligations.EntryZeroNeverEncodes : Prop :=
  (∀ mag : Nat, 256 ≤ mag → mag ≤ 32635 →
    (magIndex mag).toNat = mag / 256 ∧ 1 ≤ (magIndex mag).toNat) ∧
  (∀ lut : BitVec 7 → BitVec 3, (∀ i, i ≠ 0 → lut i = readSeglut i) →
    ∀ s : Sample, alawEncodeWith lut s = alawEncode s)

/-- R61, R84, R92: the companded value under the sign and the inversion is the segment's
exponent over the four magnitude bits below the leading one, with no table in the formula. -/
def Obligations.EncoderFollowsSegments : Prop :=
  ∀ s : Sample,
    let mag := min s.toInt.natAbs 32635
    let c := (alawEncode s ^^^ 0x55).toNat % 128
    (mag < 256 → c = mag / 16) ∧
    (256 ≤ mag → ∃ e, 1 ≤ e ∧ e ≤ 7 ∧ 2 ^ (e + 7) ≤ mag ∧ mag < 2 ^ (e + 8) ∧
      c = 16 * e + (mag / 2 ^ (e + 3) - 16))

/-- R88: clamp equivalence. -/
def Obligations.ClampEquivalence : Prop :=
  alawEncode (BitVec.ofInt 16 (-32768)) = 0x2A ∧ alawEncode (BitVec.ofInt 16 (-32767)) = 0x2A

/-- R89: saturation; the companded value is 0x7F from 31744 on with or without step 3, and step
1 changes no saturated magnitude. -/
def Obligations.SaturationLaw : Prop :=
  (∀ s : Sample, 32635 ≤ s.toInt.natAbs →
    alawEncode s = alawEncode (BitVec.ofInt 16 (s.toInt.sign * 32635)) ∧
    alawEncode s = if 0 < s.toInt then 0xAA else 0x2A) ∧
  (∀ mag : Nat, 31744 ≤ mag → mag ≤ 32767 →
    compandWith readSeglut mag = 0x7F ∧ compandWith readSeglut (saturate mag) = 0x7F) ∧
  (∀ s : Sample, saturate (magnitude (sint16 s)) = saturate (magnitude (clampMin (sint16 s))))

/-- R90: the sign law. -/
def Obligations.SignLaw : Prop :=
  ∀ s : Sample,
    (alawEncode s ^^^ 0x55).getLsbD 7 = decide (0 ≤ s.toInt) ∧
    (alawEncode s).getLsbD 7 = (alawEncode s ^^^ 0x55).getLsbD 7

/-- R91: symmetry, and monotonicity of the companded value. -/
def Obligations.SymmetryAndMonotonicity : Prop :=
  (∀ v : Int, 1 ≤ v.natAbs → v.natAbs ≤ 32767 →
    alawEncode (BitVec.ofInt 16 v) ^^^ alawEncode (BitVec.ofInt 16 (-v)) = 0x80) ∧
  (∀ a b : Int, 0 ≤ a → a ≤ b → b ≤ 32767 →
    (alawEncode (BitVec.ofInt 16 a) ^^^ 0xD5).toNat ≤ (alawEncode (BitVec.ofInt 16 b) ^^^ 0xD5).toNat)

/-- R61: every byte is a codeword that some sample produces. -/
def Obligations.EveryByteIsACodeword : Prop :=
  ∀ b : Byte, ∃ s : Sample, alawEncode s = b

/-- spec/95_test_vectors.md X8: expanding a codeword by the oracle of G1 (general knowledge,
PRESUMED, assumption log 23) gives the clamped sample back within the segment's bound. -/
def Obligations.ExpansionErrorBound : Prop :=
  ∀ s : Sample,
    let w := if s.toInt = -32768 then -32767 else s.toInt
    let e := ((alawEncode s ^^^ 0x55).extractLsb' 4 3).toNat
    (w - alawDecode (alawEncode s)).natAbs ≤ if e = 0 then 8 else 2 ^ (e + 2)

/-- R85: ENC writes the codeword to RES and changes nothing else, in both phases, for every
payload. -/
def Obligations.EncWritesCodeword : Prop :=
  (∀ (p : Payload) (s : State), exec (.enc p) s = .next { s with res := alawEncode p }) ∧
  (∀ p : Payload, decode (0x4#4 ++ p) = .command (.enc p)) ∧
  (∀ s : State, exec (.enc 0) s = .next { s with res := 0xD5 })

/-- R86: SEGRD writes the zero-extended entry to RES, or faults with code 4 and writes only ERR. -/
def Obligations.SegrdReadsTableOrFaults : Prop :=
  (∀ (p : Payload) (s : State), p.toNat < 128 → ∃ i : BitVec 7, i.toNat = p.toNat ∧
    exec (.segrd p) s = .next { s with res := BitVec.ofNat 8 (readSeglut i).toNat } ∧
    decode (0x5#4 ++ p) = .command (.segrd p)) ∧
  (∀ (p : Payload) (s : State), 128 ≤ p.toNat →
    exec (.segrd p) s = .next { s with err := if s.err = 0 then 4 else s.err } ∧
    runWord (0x5#4 ++ p) s = .next { s with err := if s.err = 0 then 4 else s.err }) ∧
  (∀ s : State, exec (.segrd 0) s = .next { s with res := 0x01 } ∧
    exec (.segrd 127) s = .next { s with res := 0x07 } ∧
    exec (.segrd 16) s = .next { s with res := 0x05 })

/-- R45: repeating ENC, SEGRD or STOP with the same operand leaves the same state. -/
def Obligations.RepeatedCommandsIdempotent : Prop :=
  ∀ (p : Payload) (s t : State),
    (exec (.enc p) s = .next t → exec (.enc p) t = .next t) ∧
    (exec (.segrd p) s = .next t → exec (.segrd p) t = .next t) ∧
    (exec (.stop 0) s = .next t → exec (.stop 0) t = .next t)

/-! ### The Frame Assembler (spec/41_frame_assembler.md) -/

/-- R100: START opens a session, or faults with code 2 in Active and code 3 for a bad size; START
1 makes a PUSH emit a one-byte frame. -/
def Obligations.StartOpensOrFaults : Prop :=
  (∀ (n : Payload) (s : State), s.phase = .idle → 1 ≤ n.toNat → n.toNat ≤ Config.frameMax →
    exec (.start n) s = .next { s with frameSize := n, fill := 0, phase := .active }) ∧
  (∀ (n : Payload) (s : State), s.phase = .idle → n.toNat = 0 ∨ Config.frameMax < n.toNat →
    exec (.start n) s = .next { s with err := if s.err = 0 then 3 else s.err }) ∧
  (∀ (n : Payload) (s : State), s.phase = .active →
    exec (.start n) s = .next { s with err := if s.err = 0 then 2 else s.err }) ∧
  (∀ n : Payload, decode (0x1#4 ++ n) = .command (.start n)) ∧
  (∀ (p : Payload) (s : State), s.phase = .idle →
    ∃ t u, exec (.start 1) s = .next t ∧ exec (.push p) t = .next u ∧
      u.frameOut = s.frameOut ++ [[alawEncode p]] ∧ u.fill = 0) ∧
  exec (.start 256) State.reset =
    .next { State.reset with phase := .active, frameSize := 256, fill := 0 }

/-- R102: PUSH in Idle changes no state, emits no frame and raises no fault. -/
def Obligations.PushIgnoredInIdle : Prop :=
  ∀ (p : Payload) (s : State), s.phase = .idle → exec (.push p) s = .next s

/-- R101: a PUSH in Active that does not complete the frame stores its sample at BUF[FILL],
advances FILL, and changes nothing else. -/
def Obligations.PushStoresSample : Prop :=
  ∀ (p : Payload) (s : State), s.phase = .active → s.fill.toNat < Config.frameMax →
    s.fill.toNat + 1 ≠ s.frameSize.toNat →
    ∃ t, exec (.push p) s = .next t ∧ t = { s with buf := t.buf, fill := t.fill } ∧
      t.fill.toNat = s.fill.toNat + 1 ∧ bufRead t s.fill.toNat = p ∧
      ∀ j, j ≠ s.fill.toNat → bufRead t j = bufRead s j

/-- R101, R104: the PUSH that completes the frame emits one message of FRAMESIZE bytes, byte j
the codeword of BUF[j] with the new sample in place, in the same step, and leaves FILL = 0 and
everything else as it was. -/
def Obligations.PushCompletesFrame : Prop :=
  ∀ (p : Payload) (s : State), s.phase = .active → s.fill.toNat < Config.frameMax →
    s.fill.toNat + 1 = s.frameSize.toNat →
    ∃ t m, exec (.push p) s = .next t ∧
      t = { s with buf := t.buf, fill := 0, frameOut := s.frameOut ++ [m] } ∧
      m.length = s.frameSize.toNat ∧
      (∀ j, j < s.frameSize.toNat →
        m[j]? = some (alawEncode (if j = s.fill.toNat then p else bufRead s j))) ∧
      bufRead t s.fill.toNat = p ∧ ∀ j, j ≠ s.fill.toNat → bufRead t j = bufRead s j

/-- R101, R103, R104: PUSH in EVERY Active state: the sample goes to BUF[FILL] and every other
entry reads as before; then the frame that BUF now holds is emitted and FILL is 0, exactly when
FILL + 1 = FRAMESIZE, and else FILL advances. THE MODEL'S CHOICE (assumption log 2) is the one
clause for states that R33 rules out, where FILL names no entry of BUF: nothing is stored. -/
def Obligations.PushInActive : Prop :=
  ∀ (p : Payload) (s : State), s.phase = .active →
    ∃ t, exec (.push p) s = .next t ∧
      t = { s with buf := t.buf, fill := t.fill, frameOut := t.frameOut } ∧
      (∀ j, bufRead t j =
        if j = s.fill.toNat ∧ s.fill.toNat < Config.frameMax then p else bufRead s j) ∧
      if s.fill.toNat + 1 = s.frameSize.toNat then
        t.fill = 0 ∧ ∃ m, t.frameOut = s.frameOut ++ [m] ∧ m.length = s.frameSize.toNat ∧
          ∀ j, j < s.frameSize.toNat → m[j]? = some (alawEncode (bufRead t j))
      else t.fill = s.fill + 1 ∧ t.frameOut = s.frameOut

/-- R105: STOP closes the session and discards the partial frame; in Idle it does nothing; with
a nonzero payload it faults with code 4 and does not stop the session. -/
def Obligations.StopClosesSession : Prop :=
  (∀ s : State, s.phase = .active → exec (.stop 0) s = .next { s with fill := 0, phase := .idle }) ∧
  (∀ s : State, s.phase = .idle → exec (.stop 0) s = .next s) ∧
  (∀ (p : Payload) (s : State), p ≠ 0 →
    exec (.stop p) s = .next { s with err := if s.err = 0 then 4 else s.err } ∧
    runWord (0x3#4 ++ p) s = .next { s with err := if s.err = 0 then 4 else s.err }) ∧
  decode (0x3#4 ++ (0 : Payload)) = .command (.stop 0)

/-- R103, R44: a step emits a frame exactly when it runs a PUSH in Active with FILL =
FRAMESIZE - 1, and then it emits one message, of FRAMESIZE bytes. -/
def Obligations.OnlyCompletingPushEmits : Prop :=
  ∀ s t : State, s.frameOut = [] → step s = .next t →
    (t.env.taken ≠ s.env.taken ↔
      s.phase = .active ∧ s.fill.toNat + 1 = s.frameSize.toNat ∧
      ∃ c p, presented s = some c ∧ decode c = .command (.push p)) ∧
    (t.env.taken ≠ s.env.taken →
      ∃ m : Message, t.env.taken = s.env.taken ++ [m] ∧ m.length = s.frameSize.toNat)

/-- R107, R49, R111: a block of samples pushed into a session, from any fill, emits
floor((f + k) / N) frames of N bytes that hold, in capture order, exactly the encodings of the
samples buffered before and then of the block, and the remainder stays buffered. -/
def Obligations.BlockFramesAndRemainder : Prop :=
  ∀ (s : State) (ss : List Sample), SessionInv s → s.phase = .active →
    let n := s.frameSize.toNat
    let f := s.fill.toNat
    let all := bufPrefix s f ++ ss
    let q := (f + ss.length) / n
    ∃ t frames, execAll (pushb ss) s = .next t ∧
      t.phase = .active ∧ t.frameSize = s.frameSize ∧ t.res = s.res ∧ t.err = s.err ∧
      t.fill.toNat = (f + ss.length) % n ∧
      t.frameOut = s.frameOut ++ frames ∧ frames.length = q ∧ (∀ m ∈ frames, m.length = n) ∧
      frames.flatten = encodeFrame (all.take (q * n)) ∧
      bufPrefix t t.fill.toNat = all.drop (q * n)

/-- R108: a session's blocks of k * N + r samples, r < N, give exactly k frames, frame j the
encoding of samples jN .. jN+N-1; the remainder stays with FILL = r, and STOP discards it. -/
def Obligations.SessionFrameCount : Prop :=
  ∀ (s : State) (n : Payload) (blocks : List (List Sample)) (k r : Nat),
    s.phase = .idle → 1 ≤ n.toNat → n.toNat ≤ Config.frameMax → r < n.toNat →
    blocks.flatten.length = k * n.toNat + r →
    ∃ u t frames, execAll (.start n :: blocks.flatMap pushb) s = .next u ∧
      u.frameOut = s.frameOut ++ frames ∧ frames.length = k ∧
      (∀ j, j < k →
        frames[j]? = some (encodeFrame ((blocks.flatten.drop (j * n.toNat)).take n.toNat))) ∧
      u.fill.toNat = r ∧ bufPrefix u r = blocks.flatten.drop (k * n.toNat) ∧
      exec (.stop 0) u = .next t ∧ t.frameOut = u.frameOut ∧ t.fill = 0 ∧ t.phase = .idle

/-- R137: after a STOP, no sequence of commands without a START emits a frame, whatever rest of
a block it holds. -/
def Obligations.NoFrameAfterStop : Prop :=
  ∀ (s u t : State) (is : List Instr), exec (.stop 0) s = .next u →
    (∀ i ∈ is, isStart i = false) → execAll is u = .next t →
    t.frameOut = s.frameOut ∧ t.phase = .idle

/-- R110: among the commands only an accepted START writes FRAMESIZE, so that every frame of a
session has the same length. -/
def Obligations.FrameSizeFixedInSession : Prop :=
  (∀ (i : Instr) (s t : State), exec i s = .next t → t.frameSize ≠ s.frameSize →
    s.phase = .idle ∧ ∃ n, i = .start n ∧ 1 ≤ n.toNat ∧ n.toNat ≤ Config.frameMax ∧ t.frameSize = n) ∧
  (∀ (is : List Instr) (s t : State), s.phase = .active → (∀ i ∈ is, isStop i = false) →
    execAll is s = .next t →
    t.frameSize = s.frameSize ∧
    ∃ frames, t.frameOut = s.frameOut ++ frames ∧ ∀ m ∈ frames, m.length = s.frameSize.toNat)

/-- R32, R106, R109: the samples discarded at the end of a session are never observed: from
Idle, two states that differ in all of BUF give the same outputs for every sequence of commands. -/
def Obligations.DiscardedSamplesNeverObserved : Prop :=
  ∀ (is : List Instr) (s : State) (b : Memory) (d : Nat) (t : State), s.phase = .idle →
    execAll is s = .next t →
    ∃ t', execAll is { s with buf := b, bufDraw := d } = .next t' ∧
      t'.frameOut = t.frameOut ∧ status t' = status t ∧ resOut t' = resOut t ∧
      frameSizeOut t' = frameSizeOut t

/-- R25: in a state that R33 admits, no output depends on the unspecified contents of BUF. -/
def Obligations.UnwrittenEntriesNeverObserved : Prop :=
  ∀ (i : Instr) (s t : State) (d : Nat), SessionInv s → BufferInv s → exec i s = .next t →
    exec i { s with bufDraw := d } = .next { t with bufDraw := d }

/-! ### Faults (spec/60_exceptions.md) -/

/-- R130, R132, R133: a command word faults exactly as the check order says, a faulting word
writes ERR and nothing else, and ERR keeps the first code; a word with no fault leaves ERR. -/
def Obligations.FaultsFollowCheckOrder : Prop :=
  ∀ (s : State) (c : CmdWord) (rest : List Input), s.frameOut = [] → s.inputs = .command c :: rest →
    (∀ f, faultOf c s.phase = some f →
      step s = .next { s with inputs := rest, err := if s.err = 0 then faultCode f else s.err }) ∧
    (faultOf c s.phase = none → ∃ t, step s = .next t ∧ t.err = s.err)

/-- R27: ERR holds 0x00 until the first fault, which writes its code, then keeps that code until
a reset clears it, and is visible as STATUS[15:8]. -/
def Obligations.FirstFaultSticks : Prop :=
  State.reset.err = 0 ∧
  (∀ s : State, (status s).extractLsb' 8 8 = s.err) ∧
  (∀ s t : State, step s = .next t →
    (presentsReset s = true → t.err = 0) ∧
    (∀ c f, presented s = some c → faultOf c s.phase = some f → s.err = 0 →
      t.err = faultCode f) ∧
    (presentsReset s = false → s.err ≠ 0 → t.err = s.err) ∧
    (presentsReset s = false → s.err = 0 → t.err ≠ 0 →
      ∃ c f, presented s = some c ∧ faultOf c s.phase = some f ∧ t.err = faultCode f))

/-- R131: ERR never holds a code other than 0x00 to 0x04. -/
def Obligations.ErrHoldsDefinedCodes : Prop :=
  State.reset.err.toNat ≤ 4 ∧
  ∀ s t : State, s.err.toNat ≤ 4 → step s = .next t → t.err.toNat ≤ 4

/-- R131: PUSH and ENC never fault, in any state. -/
def Obligations.PushAndEncNeverFault : Prop :=
  ∀ (p : Payload) (s : State),
    (∃ t, exec (.push p) s = .next t ∧ t.err = s.err) ∧
    (∃ t, exec (.enc p) s = .next t ∧ t.err = s.err)

/-- R35: what each command leaves unchanged, every entry of BUF among it; no command touches
the ports' schedule or the environment. -/
def Obligations.CommandFrames : Prop :=
  ∀ (i : Instr) (s t : State), exec i s = .next t →
    t.inputs = s.inputs ∧ t.env = s.env ∧ t.bufDraw = s.bufDraw ∧
    match i with
    | .start _ =>
      t = { s with phase := t.phase, frameSize := t.frameSize, fill := t.fill, err := t.err } ∧
      ∀ j, bufRead t j = bufRead s j
    | .push _ =>
      t.phase = s.phase ∧ t.frameSize = s.frameSize ∧ t.res = s.res ∧ t.err = s.err ∧
      (s.phase = .idle → t = s) ∧
      (∀ j, (s.phase = .active → j ≠ s.fill.toNat) → bufRead t j = bufRead s j) ∧
      (s.fill.toNat + 1 ≠ s.frameSize.toNat → t.frameOut = s.frameOut)
    | .stop _ =>
      t = { s with phase := t.phase, fill := t.fill, err := t.err } ∧
      ∀ j, bufRead t j = bufRead s j
    | .enc _ => t = { s with res := t.res } ∧ ∀ j, bufRead t j = bufRead s j
    | .segrd _ => t = { s with res := t.res, err := t.err } ∧ ∀ j, bufRead t j = bufRead s j

/-! ### Reset, the step and the invariants (spec/10_state.md, spec/70_reset_and_hazards.md) -/

/-- R172, R173: the state after reset, with its outputs, the invariants of R33, and the agents'
initial values. -/
def Obligations.ResetStateValues : Prop :=
  State.reset.phase = .idle ∧ status State.reset = 0x00000000 ∧
  frameSizeOut State.reset = 0x0000 ∧ resOut State.reset = 0x00 ∧ SessionInv State.reset ∧
  State.reset.env.ctrl = .idle ∧ State.reset.env.conn = .closed

/-- Reset meets the invariants that the steps keep. For the block they follow from R170; that the
agents and the schedule start with nothing held, pending, failed, delivered, issued, sent or
presented (EnvInv, Quiet) is THE MODEL'S CHOICE (DESIGN CHOICE, assumption log 4, 7), which R33
and R172 do not give. -/
def Obligations.ResetMeetsInvariants : Prop :=
  SessionInv State.reset ∧ BufferInv State.reset ∧ EnvInv State.reset.env ∧
  State.reset.frameOut = [] ∧ Quiet State.reset

/-- R170, R136: a reset, whatever word stands on CMD_IN in the same step, leaves the reset
values in one step, emits no frame, and touches neither CONN nor CTRL. THE MODEL'S reading
(DEDUCED, assumption log 17): it touches nothing else of the agents either, so that issued
commands, delivered samples and messages in flight survive it. -/
def Obligations.ResetWinsAndClears : Prop :=
  ∀ (s : State) (c : Option CmdWord) (rest : List Input), s.inputs = .reset c :: rest →
    ∃ t, step s = .next t ∧ t.phase = .idle ∧ t.fill = 0 ∧ t.frameSize = 0 ∧ t.res = 0x00 ∧
      t.err = 0x00 ∧ t.frameOut = s.frameOut ∧ t.env = s.env ∧ t.inputs = rest

/-- R33: every step keeps the session invariant: Idle has FILL = 0, Active has
1 <= FRAMESIZE <= FRAME_MAX and FILL < FRAMESIZE. -/
def Obligations.StepKeepsSession : Prop :=
  ∀ s t : State, SessionInv s → step s = .next t → SessionInv t

/-- R25, R150: every step keeps BUF's canonical form and the partial frame's samples written,
and leaves no message on FRAME_OUT that the consumer has not taken. -/
def Obligations.StepKeepsBuffer : Prop :=
  ∀ s t : State, SessionInv s → BufferInv s → s.frameOut = [] → step s = .next t →
    BufferInv t ∧ t.frameOut = []

/-- R160: nothing the environment presents can stall the block: every state has a next state. -/
def Obligations.StepNeverStalls : Prop :=
  ∀ s : State, ∃ t, step s = .next t

/-- R48, R67, R150: when the word on CMD_IN decodes to a command, the step is exec of that
command on the state with the word off the schedule, after which the consumer takes what was
emitted. An illegal word's step is its fault. -/
def Obligations.StepRunsDecodedCommand : Prop :=
  ∀ (s : State) (c : CmdWord) (rest : List Input), s.inputs = .command c :: rest →
    (∀ i t, decode c = .command i → exec i { s with inputs := rest } = .next t →
      step s = .next { t with env := t.frameOut.foldl Env.take t.env, frameOut := [] }) ∧
    (∀ f, decode c = .illegal f → s.frameOut = [] →
      step s = .next { s with inputs := rest, err := recordFault s.err f })

/-- Waiting (R171), and the other sources of a word: the controller's issued command and the next
sample of a delivered block, each oldest first, and a byte-serial sample (R41) run as the same
word on CMD_IN. All of it is THE MODEL'S reading: that a step with nothing presented changes
nothing is assumption log 5 (DEDUCED); that issued commands wait until the schedule has the block
accept them, and that nothing happens when none waits, is log 12 (DESIGN CHOICE); that delivered
samples wait too, behind an issued START but not behind an issued STOP, is log 25 (DESIGN
CHOICE); that all byte-serial samples have one byte order is log 18 (DEDUCED). -/
def Obligations.OtherWordSources : Prop :=
  (∀ s : State, s.inputs = [] → step s = .next s) ∧
  (∀ (s : State) (c : CmdWord) (cs : List CmdWord) (rest : List Input),
    s.inputs = .issued :: rest → s.env.outbox = c :: cs →
    step s = step { s with inputs := .command c :: rest, env := { s.env with outbox := cs } }) ∧
  (∀ (s : State) (rest : List Input), s.inputs = .issued :: rest → s.env.outbox = [] →
    step s = .next { s with inputs := rest }) ∧
  (∀ (s : State) (p : Sample) (ps : List Sample) (rest : List Input),
    s.inputs = .blockSample :: rest → s.env.captured = p :: ps →
    (∀ c ∈ s.env.outbox, isStartWord c = false) →
    step s = step { s with
      inputs := .command (encode (.push p)) :: rest
      env := { s.env with captured := ps } }) ∧
  (∀ (s : State) (rest : List Input), s.inputs = .blockSample :: rest →
    s.env.captured = [] ∨ (∃ c ∈ s.env.outbox, isStartWord c = true) →
    step s = .next { s with inputs := rest }) ∧
  (∀ (s : State) (a b : Byte) (rest : List Input), s.inputs = .serialSample a b :: rest →
    step s = step { s with inputs := .command (encode (.push (serialSample a b))) :: rest }) ∧
  ((∀ a b : Byte, serialSample a b = a ++ b) ∨ (∀ a b : Byte, serialSample a b = b ++ a))

/-- R29: the fields of STATUS, the reserved bits hardwired to 0, and their reset values. -/
def Obligations.StatusFields : Prop :=
  (∀ s : State,
    ((status s).getLsbD 0 = true ↔ s.phase = .active) ∧
    (status s).extractLsb' 1 7 = 0 ∧
    (status s).extractLsb' 8 8 = s.err ∧
    (status s).extractLsb' 16 16 = s.fill) ∧
  status State.reset = 0

/-! ### The environment agents (spec/60_exceptions.md section 6) -/

/-- R34, R104: the block neither reads nor writes its environment: a command does the same
whatever the agents' state. -/
def Obligations.BlockIgnoresEnvironment : Prop :=
  ∀ (i : Instr) (s t : State) (e : Env), exec i s = .next t →
    t.env = s.env ∧ exec i (s.setEnv e) = .next (t.setEnv e)

/-- R152: of each message the block emits, the consumer sends exactly one copy when CONN is Open
in the emitting step and otherwise drops it; with no emission nothing is sent. THE MODEL'S CHOICE
(DESIGN CHOICE, assumption log 11), for R154's draw: a message sent is in flight until a later
event delivers or loses it. -/
def Obligations.SendGate : Prop :=
  ∀ s t : State, s.frameOut = [] → step s = .next t →
    (∀ m : Message, t.env.taken = s.env.taken ++ [m] → s.env.conn = .opened →
      t.env.sent = s.env.sent ++ [m] ∧ t.env.inFlight = s.env.inFlight ++ [m]) ∧
    (t.env.taken = s.env.taken ∨ s.env.conn ≠ .opened → t.env.sent = s.env.sent)

/-- R151: CONN's transitions, its monotonicity on one connection instance, and that the block's
steps never write it. THE MODEL'S reading: that open() makes CONN Connecting from every value, a
live connection's among them, is assumption log 9 (DEDUCED); that establishment, failure and
confirmation have no effect where R151 names none is log 7 (DESIGN CHOICE). -/
def Obligations.ConnTransitions : Prop :=
  (∀ e : Env, (e.apply .openCall).conn = .connecting) ∧
  (∀ e : Env, (e.apply .established).conn =
    if e.conn = .connecting then .opened else e.conn) ∧
  (∀ e : Env, (e.apply .connFailed).conn =
    if e.conn = .connecting ∨ e.conn = .opened then .closed else e.conn) ∧
  (∀ e : Env, (e.apply .closeCall).conn =
    if e.conn = .connecting ∨ e.conn = .opened then .closing else e.conn) ∧
  (∀ e : Env, (e.apply .closeConfirmed).conn =
    if e.conn = .closing then .closed else e.conn) ∧
  (∀ (e : Env) (ev : EnvEvent), ev = .openCall ∨ ev = .acquired true ∨
    e.conn.rank ≤ (e.apply ev).conn.rank) ∧
  (∀ s t : State, presentsEnv s = false → step s = .next t → t.env.conn = s.env.conn) ∧
  Env.reset.conn = .closed

/-- R155: the controller's start: the request at the configured frame size, sample rate and block
size, and the platform's answer to it. THE MODEL'S reading: the condition for accepting a start,
and that it is ignored otherwise, is read from R156 and R179 (DEDUCED, assumption log 8); that
the grant's open() makes CONN Connecting from every value is log 9 (DEDUCED, unsafe on a live
connection); that START waits in the outbox until it is accepted is log 12 (DESIGN CHOICE); that
grant, open, issuing START and entering Capturing are one step is log 26 (DESIGN CHOICE); that a
frame size outside 1 .. FRAME_MAX is taken like any other is log 27 (DESIGN CHOICE). -/
def Obligations.ControllerStart : Prop :=
  (∀ (e : Env) (n : Payload), e.ctrl = .idle → e.acquiring = none → e.source = false →
    e.conn = .closed → e.captured = [] →
    e.apply (.startCall n) =
      { e with
        acquiring := some
          { frameSize := n, sampleRate := Config.sampleRate, blockSize := Config.blockSize } }) ∧
  (∀ (e : Env) (n : Payload),
    e.ctrl = .capturing ∨ e.acquiring.isSome = true ∨ e.source = true ∨ e.conn ≠ .closed ∨
      e.captured ≠ [] → e.apply (.startCall n) = e) ∧
  (∀ (e : Env) (r : SourceRequest), e.acquiring = some r →
    e.apply (.acquired true) =
      { e with
        acquiring := none
        source := true
        ctrl := .capturing
        conn := .connecting
        establishFailed := false
        outbox := e.outbox ++ [encode (.start r.frameSize)] } ∧
    e.apply (.acquired false) = { e with acquiring := none, reports := e.reports + 1 })

/-- R155, R70: an audio callback delivers its block while the controller captures, and the block,
with nothing else on its way and no START waiting, runs exactly as its PUSHB does on CMD_IN. THE
MODEL'S CHOICE (DESIGN CHOICE, assumption log 25), which R155 and R70 do not give: the first
clause, that a callback in Idle delivers nothing (vector G-5's late block is PUSH words on CMD_IN,
which `PushIgnoredInIdle` covers); that the samples wait until the schedule has the block accept
them one by one; and that a block has any length. -/
def Obligations.CallbackDeliversPushb : Prop :=
  (∀ (e : Env) (ss : List Sample), e.ctrl = .idle → e.apply (.audioCallback ss) = e) ∧
  (∀ (e : Env) (ss : List Sample), e.ctrl = .capturing →
    e.apply (.audioCallback ss) = { e with captured := e.captured ++ ss }) ∧
  (∀ (s : State) (ss : List Sample) (rest : List Input), s.env.ctrl = .capturing →
    s.env.captured = [] → (∀ c ∈ s.env.outbox, isStartWord c = false) →
    Host.Core.run core (ss.length + 1) { s with
      inputs := .env (.audioCallback ss) :: (List.replicate ss.length .blockSample ++ rest) } =
    Host.Core.run core ss.length { s with inputs := (pushb ss).map present ++ rest })

/-- R156, R157: stop() at any time, by call, by the source's end, and when the controller finds
CONN Closed in a session. THE MODEL'S CHOICE: stop() is one step of the agents, and the source's
end is a stop() (DESIGN CHOICE, assumption log 21), its STOP waiting in the outbox (DESIGN CHOICE,
log 12); the reaction to Closed is a step of its own, and `establishFailed` says what counts as an
establishment failure (DESIGN CHOICE, log 10). -/
def Obligations.ControllerStop : Prop :=
  (∀ e : Env, let t := e.apply .stopCall
    t.source = false ∧ t.acquiring = none ∧ t.ctrl = .idle ∧
    t.conn = (e.apply .closeCall).conn ∧ t.outbox = e.outbox ++ [encode (.stop 0)]) ∧
  (∀ e : Env, e.ctrl = .capturing → e.apply .sourceEnded = e.apply .stopCall) ∧
  (∀ e : Env, e.ctrl = .capturing → e.conn = .closed →
    (e.establishFailed = true → e.apply .seesClosed = e.apply .stopCall) ∧
    (e.establishFailed = false → e.apply .seesClosed =
      if Config.autoStopOnClosed then e.apply .stopCall else e))

/-- R154, R156: every step keeps the agents' invariant: arrivals keep the send order, and the
source is held exactly while capturing. THE MODEL'S reading: that an acquisition is pending only
in Idle, with no sample of an earlier session left, rests on when a start() is accepted (DEDUCED,
assumption log 8) and on what a callback may deliver (DESIGN CHOICE, log 25); that a failed
establishment leaves Closed is about log 10's own field (DESIGN CHOICE); that the source is held
exactly while Capturing, in every state between steps, rests on stop() and the grant being one
step each (DESIGN CHOICE, log 21, 26). -/
def Obligations.StepKeepsEnvironment : Prop :=
  ∀ s t : State, EnvInv s.env → step s = .next t → EnvInv t.env

/-- R158: stop() called before the acquisition completes: from Idle, whatever follows but a new
start() or a raw START word, no frame is emitted or sent, and the source is not held. "No START
is issued" is said of the outbox, where issued commands wait (assumption log 12). -/
def Obligations.CancelledStartSendsNothing : Prop :=
  ∀ (s t : State) (rest : List Input) (k : Nat), s.phase = .idle → s.frameOut = [] →
    s.env.ctrl = .idle → s.env.acquiring.isSome = true →
    (∀ c ∈ s.env.outbox, isStartWord c = false) →
    s.inputs = .env .stopCall :: rest → (∀ x ∈ rest, Input.startsNothing x = true) →
    Host.Core.run core (k + 1) s = .next t →
    t.env.taken = s.env.taken ∧ t.env.sent = s.env.sent ∧ t.env.source = false ∧
    t.env.ctrl = .idle ∧ t.phase = .idle ∧ ∀ c ∈ t.env.outbox, isStartWord c = false

/-- R158, R102, as a step: where nothing is captured and nothing can start capture, every step
leaves it so, and takes and transmits no message. THE MODEL'S reading of the agents: issued
commands wait in the outbox (DESIGN CHOICE, assumption log 12), an answer without a request has
no effect (DESIGN CHOICE, log 7), and a callback outside capture delivers nothing (DESIGN CHOICE,
log 25). -/
def Obligations.QuietStaysQuiet : Prop :=
  ∀ s t : State, Quiet s → step s = .next t →
    Quiet t ∧ t.env.taken = s.env.taken ∧ t.env.sent = s.env.sent

/-- R10: FRAME_MAX's bounds, for every value the parameter may have. -/
def Obligations.FrameMaxBounds : Prop :=
  256 ≤ Config.frameMax ∧ Config.frameMax ≤ 65535
end

