-- ==== Sys2Proof/Laws/State.lean ====
section
/-! SUPPORT. What each register write leaves in each field of State: the field written holds the
value, every other field is as before. -/

namespace Sys2Proof.Machine

variable (s : State)

/-! ### setPhase -/

@[simp] theorem State.setPhase_phase (v : Phase) : (s.setPhase v).phase = v := rfl
@[simp] theorem State.setPhase_frameSize (v : Phase) : (s.setPhase v).frameSize = s.frameSize := rfl
@[simp] theorem State.setPhase_fill (v : Phase) : (s.setPhase v).fill = s.fill := rfl
@[simp] theorem State.setPhase_buf (v : Phase) : (s.setPhase v).buf = s.buf := rfl
@[simp] theorem State.setPhase_bufDraw (v : Phase) : (s.setPhase v).bufDraw = s.bufDraw := rfl
@[simp] theorem State.setPhase_res (v : Phase) : (s.setPhase v).res = s.res := rfl
@[simp] theorem State.setPhase_err (v : Phase) : (s.setPhase v).err = s.err := rfl
@[simp] theorem State.setPhase_frameOut (v : Phase) : (s.setPhase v).frameOut = s.frameOut := rfl
@[simp] theorem State.setPhase_inputs (v : Phase) : (s.setPhase v).inputs = s.inputs := rfl
@[simp] theorem State.setPhase_env (v : Phase) : (s.setPhase v).env = s.env := rfl

/-! ### setFrameSize -/

@[simp] theorem State.setFrameSize_phase (v : BitVec 16) : (s.setFrameSize v).phase = s.phase := rfl
@[simp] theorem State.setFrameSize_frameSize (v : BitVec 16) : (s.setFrameSize v).frameSize = v := rfl
@[simp] theorem State.setFrameSize_fill (v : BitVec 16) : (s.setFrameSize v).fill = s.fill := rfl
@[simp] theorem State.setFrameSize_buf (v : BitVec 16) : (s.setFrameSize v).buf = s.buf := rfl
@[simp] theorem State.setFrameSize_bufDraw (v : BitVec 16) : (s.setFrameSize v).bufDraw = s.bufDraw := rfl
@[simp] theorem State.setFrameSize_res (v : BitVec 16) : (s.setFrameSize v).res = s.res := rfl
@[simp] theorem State.setFrameSize_err (v : BitVec 16) : (s.setFrameSize v).err = s.err := rfl
@[simp] theorem State.setFrameSize_frameOut (v : BitVec 16) : (s.setFrameSize v).frameOut = s.frameOut := rfl
@[simp] theorem State.setFrameSize_inputs (v : BitVec 16) : (s.setFrameSize v).inputs = s.inputs := rfl
@[simp] theorem State.setFrameSize_env (v : BitVec 16) : (s.setFrameSize v).env = s.env := rfl

/-! ### setFill -/

@[simp] theorem State.setFill_phase (v : BitVec 16) : (s.setFill v).phase = s.phase := rfl
@[simp] theorem State.setFill_frameSize (v : BitVec 16) : (s.setFill v).frameSize = s.frameSize := rfl
@[simp] theorem State.setFill_fill (v : BitVec 16) : (s.setFill v).fill = v := rfl
@[simp] theorem State.setFill_buf (v : BitVec 16) : (s.setFill v).buf = s.buf := rfl
@[simp] theorem State.setFill_bufDraw (v : BitVec 16) : (s.setFill v).bufDraw = s.bufDraw := rfl
@[simp] theorem State.setFill_res (v : BitVec 16) : (s.setFill v).res = s.res := rfl
@[simp] theorem State.setFill_err (v : BitVec 16) : (s.setFill v).err = s.err := rfl
@[simp] theorem State.setFill_frameOut (v : BitVec 16) : (s.setFill v).frameOut = s.frameOut := rfl
@[simp] theorem State.setFill_inputs (v : BitVec 16) : (s.setFill v).inputs = s.inputs := rfl
@[simp] theorem State.setFill_env (v : BitVec 16) : (s.setFill v).env = s.env := rfl

/-! ### setBuf -/

@[simp] theorem State.setBuf_phase (v : Memory) : (s.setBuf v).phase = s.phase := rfl
@[simp] theorem State.setBuf_frameSize (v : Memory) : (s.setBuf v).frameSize = s.frameSize := rfl
@[simp] theorem State.setBuf_fill (v : Memory) : (s.setBuf v).fill = s.fill := rfl
@[simp] theorem State.setBuf_buf (v : Memory) : (s.setBuf v).buf = v := rfl
@[simp] theorem State.setBuf_bufDraw (v : Memory) : (s.setBuf v).bufDraw = s.bufDraw := rfl
@[simp] theorem State.setBuf_res (v : Memory) : (s.setBuf v).res = s.res := rfl
@[simp] theorem State.setBuf_err (v : Memory) : (s.setBuf v).err = s.err := rfl
@[simp] theorem State.setBuf_frameOut (v : Memory) : (s.setBuf v).frameOut = s.frameOut := rfl
@[simp] theorem State.setBuf_inputs (v : Memory) : (s.setBuf v).inputs = s.inputs := rfl
@[simp] theorem State.setBuf_env (v : Memory) : (s.setBuf v).env = s.env := rfl

/-! ### setBufDraw -/

@[simp] theorem State.setBufDraw_phase (v : Nat) : (s.setBufDraw v).phase = s.phase := rfl
@[simp] theorem State.setBufDraw_frameSize (v : Nat) : (s.setBufDraw v).frameSize = s.frameSize := rfl
@[simp] theorem State.setBufDraw_fill (v : Nat) : (s.setBufDraw v).fill = s.fill := rfl
@[simp] theorem State.setBufDraw_buf (v : Nat) : (s.setBufDraw v).buf = s.buf := rfl
@[simp] theorem State.setBufDraw_bufDraw (v : Nat) : (s.setBufDraw v).bufDraw = v := rfl
@[simp] theorem State.setBufDraw_res (v : Nat) : (s.setBufDraw v).res = s.res := rfl
@[simp] theorem State.setBufDraw_err (v : Nat) : (s.setBufDraw v).err = s.err := rfl
@[simp] theorem State.setBufDraw_frameOut (v : Nat) : (s.setBufDraw v).frameOut = s.frameOut := rfl
@[simp] theorem State.setBufDraw_inputs (v : Nat) : (s.setBufDraw v).inputs = s.inputs := rfl
@[simp] theorem State.setBufDraw_env (v : Nat) : (s.setBufDraw v).env = s.env := rfl

/-! ### setRes -/

@[simp] theorem State.setRes_phase (v : Byte) : (s.setRes v).phase = s.phase := rfl
@[simp] theorem State.setRes_frameSize (v : Byte) : (s.setRes v).frameSize = s.frameSize := rfl
@[simp] theorem State.setRes_fill (v : Byte) : (s.setRes v).fill = s.fill := rfl
@[simp] theorem State.setRes_buf (v : Byte) : (s.setRes v).buf = s.buf := rfl
@[simp] theorem State.setRes_bufDraw (v : Byte) : (s.setRes v).bufDraw = s.bufDraw := rfl
@[simp] theorem State.setRes_res (v : Byte) : (s.setRes v).res = v := rfl
@[simp] theorem State.setRes_err (v : Byte) : (s.setRes v).err = s.err := rfl
@[simp] theorem State.setRes_frameOut (v : Byte) : (s.setRes v).frameOut = s.frameOut := rfl
@[simp] theorem State.setRes_inputs (v : Byte) : (s.setRes v).inputs = s.inputs := rfl
@[simp] theorem State.setRes_env (v : Byte) : (s.setRes v).env = s.env := rfl

/-! ### setErr -/

@[simp] theorem State.setErr_phase (v : Byte) : (s.setErr v).phase = s.phase := rfl
@[simp] theorem State.setErr_frameSize (v : Byte) : (s.setErr v).frameSize = s.frameSize := rfl
@[simp] theorem State.setErr_fill (v : Byte) : (s.setErr v).fill = s.fill := rfl
@[simp] theorem State.setErr_buf (v : Byte) : (s.setErr v).buf = s.buf := rfl
@[simp] theorem State.setErr_bufDraw (v : Byte) : (s.setErr v).bufDraw = s.bufDraw := rfl
@[simp] theorem State.setErr_res (v : Byte) : (s.setErr v).res = s.res := rfl
@[simp] theorem State.setErr_err (v : Byte) : (s.setErr v).err = v := rfl
@[simp] theorem State.setErr_frameOut (v : Byte) : (s.setErr v).frameOut = s.frameOut := rfl
@[simp] theorem State.setErr_inputs (v : Byte) : (s.setErr v).inputs = s.inputs := rfl
@[simp] theorem State.setErr_env (v : Byte) : (s.setErr v).env = s.env := rfl

/-! ### setFrameOut -/

@[simp] theorem State.setFrameOut_phase (v : List Message) : (s.setFrameOut v).phase = s.phase := rfl
@[simp] theorem State.setFrameOut_frameSize (v : List Message) : (s.setFrameOut v).frameSize = s.frameSize := rfl
@[simp] theorem State.setFrameOut_fill (v : List Message) : (s.setFrameOut v).fill = s.fill := rfl
@[simp] theorem State.setFrameOut_buf (v : List Message) : (s.setFrameOut v).buf = s.buf := rfl
@[simp] theorem State.setFrameOut_bufDraw (v : List Message) : (s.setFrameOut v).bufDraw = s.bufDraw := rfl
@[simp] theorem State.setFrameOut_res (v : List Message) : (s.setFrameOut v).res = s.res := rfl
@[simp] theorem State.setFrameOut_err (v : List Message) : (s.setFrameOut v).err = s.err := rfl
@[simp] theorem State.setFrameOut_frameOut (v : List Message) : (s.setFrameOut v).frameOut = v := rfl
@[simp] theorem State.setFrameOut_inputs (v : List Message) : (s.setFrameOut v).inputs = s.inputs := rfl
@[simp] theorem State.setFrameOut_env (v : List Message) : (s.setFrameOut v).env = s.env := rfl

/-! ### setInputs -/

@[simp] theorem State.setInputs_phase (v : List Input) : (s.setInputs v).phase = s.phase := rfl
@[simp] theorem State.setInputs_frameSize (v : List Input) : (s.setInputs v).frameSize = s.frameSize := rfl
@[simp] theorem State.setInputs_fill (v : List Input) : (s.setInputs v).fill = s.fill := rfl
@[simp] theorem State.setInputs_buf (v : List Input) : (s.setInputs v).buf = s.buf := rfl
@[simp] theorem State.setInputs_bufDraw (v : List Input) : (s.setInputs v).bufDraw = s.bufDraw := rfl
@[simp] theorem State.setInputs_res (v : List Input) : (s.setInputs v).res = s.res := rfl
@[simp] theorem State.setInputs_err (v : List Input) : (s.setInputs v).err = s.err := rfl
@[simp] theorem State.setInputs_frameOut (v : List Input) : (s.setInputs v).frameOut = s.frameOut := rfl
@[simp] theorem State.setInputs_inputs (v : List Input) : (s.setInputs v).inputs = v := rfl
@[simp] theorem State.setInputs_env (v : List Input) : (s.setInputs v).env = s.env := rfl

/-! ### setEnv -/

@[simp] theorem State.setEnv_phase (v : Env) : (s.setEnv v).phase = s.phase := rfl
@[simp] theorem State.setEnv_frameSize (v : Env) : (s.setEnv v).frameSize = s.frameSize := rfl
@[simp] theorem State.setEnv_fill (v : Env) : (s.setEnv v).fill = s.fill := rfl
@[simp] theorem State.setEnv_buf (v : Env) : (s.setEnv v).buf = s.buf := rfl
@[simp] theorem State.setEnv_bufDraw (v : Env) : (s.setEnv v).bufDraw = s.bufDraw := rfl
@[simp] theorem State.setEnv_res (v : Env) : (s.setEnv v).res = s.res := rfl
@[simp] theorem State.setEnv_err (v : Env) : (s.setEnv v).err = s.err := rfl
@[simp] theorem State.setEnv_frameOut (v : Env) : (s.setEnv v).frameOut = s.frameOut := rfl
@[simp] theorem State.setEnv_inputs (v : Env) : (s.setEnv v).inputs = s.inputs := rfl
@[simp] theorem State.setEnv_env (v : Env) : (s.setEnv v).env = v := rfl

end Sys2Proof.Machine
end

