-- ==== Sys2Proof/Laws/Ops.lean ====
section
/-! SUPPORT. What the operations over BUF, ERR and reset can do: one lemma per fact, cited
instead of unfolding the operation. -/

namespace Sys2Proof.Machine

/-! ### FRAME_MAX -/

theorem frameMax_ge : 256 ≤ Config.frameMax := by
  unfold Config.frameMax; omega

theorem frameMax_le : Config.frameMax ≤ 65535 := by
  have h := Config.frameMaxAbove.isLt
  unfold Config.frameMax; omega

/-! ### BUF as a list -/

@[simp] theorem Memory.lookup_nil (i : Nat) : Memory.lookup [] i = none := rfl

theorem Memory.lookup_insert_self (m : Memory) (i : Nat) (v : Sample) :
    (m.insert i v).lookup i = some v := by
  induction m with
  | nil => simp [Memory.insert, Memory.lookup]
  | cons e m ih =>
    obtain ⟨k, w⟩ := e
    unfold Memory.insert
    split
    · simp [Memory.lookup]
    · split
      · simp [Memory.lookup]
      · have hk : k ≠ i := fun h => by omega
        simp [Memory.lookup, hk, ih]

theorem Memory.lookup_insert_ne (m : Memory) {i j : Nat} (v : Sample) (h : j ≠ i) :
    (m.insert i v).lookup j = m.lookup j := by
  induction m with
  | nil => simp [Memory.insert, Memory.lookup, h.symm]
  | cons e m ih =>
    obtain ⟨k, w⟩ := e
    unfold Memory.insert
    split
    · simp [Memory.lookup, h.symm]
    · split
      · have hk : k ≠ j := fun hk => by omega
        simp [Memory.lookup, h.symm, hk]
      · simp [Memory.lookup, ih]

theorem Memory.mem_insert (m : Memory) (i : Nat) (v : Sample) {e : Nat × Sample}
    (h : e ∈ m.insert i v) : e = (i, v) ∨ e ∈ m := by
  induction m with
  | nil => simpa [Memory.insert] using h
  | cons x m ih =>
    obtain ⟨k, w⟩ := x
    unfold Memory.insert at h
    split at h
    · simpa using h
    · split at h
      · rcases List.mem_cons.mp h with h | h
        · exact .inl h
        · exact .inr (List.mem_cons_of_mem _ h)
      · rcases List.mem_cons.mp h with h | h
        · exact .inr (h ▸ List.mem_cons_self)
        · exact (ih h).imp_right (List.mem_cons_of_mem _)

/-- Listing an entry keeps the indices strictly rising. -/
theorem Memory.insert_sorted (m : Memory) (i : Nat) (v : Sample)
    (h : m.Pairwise (fun a b => a.1 < b.1)) : (m.insert i v).Pairwise (fun a b => a.1 < b.1) := by
  induction m with
  | nil => simp [Memory.insert]
  | cons x m ih =>
    obtain ⟨k, w⟩ := x
    obtain ⟨hk, hm⟩ := List.pairwise_cons.mp h
    unfold Memory.insert
    split
    · rename_i hlt
      refine List.pairwise_cons.mpr ⟨fun e he => ?_, h⟩
      rcases List.mem_cons.mp he with rfl | he
      · exact hlt
      · exact Nat.lt_trans hlt (hk e he)
    · split
      · rename_i heq
        exact List.pairwise_cons.mpr ⟨fun e he => heq ▸ hk e he, hm⟩
      · refine List.pairwise_cons.mpr ⟨fun e he => ?_, ih hm⟩
        rcases Memory.mem_insert m i v he with rfl | he
        · show k < i; omega
        · exact hk e he

/-- The empty BUF, as reset leaves it, is canonical. -/
theorem Memory.wf_nil : Memory.wf [] := ⟨List.Pairwise.nil, by simp⟩

/-- Every write keeps BUF's canonical form. -/
theorem Memory.store_wf (m : Memory) (i : Nat) (v : Sample) (h : m.wf) : (m.store i v).wf := by
  unfold Memory.store
  split
  · rename_i hi
    refine ⟨Memory.insert_sorted m i v h.1, fun e he => ?_⟩
    rcases Memory.mem_insert m i v he with rfl | he
    · exact hi
    · exact h.2 e he
  · exact h

theorem Memory.lookup_store_self (m : Memory) {i : Nat} (v : Sample) (h : i < Config.frameMax) :
    (m.store i v).lookup i = some v := by
  simp [Memory.store, h, Memory.lookup_insert_self]

theorem Memory.lookup_store_ne (m : Memory) {i j : Nat} (v : Sample) (h : j ≠ i) :
    (m.store i v).lookup j = m.lookup j := by
  unfold Memory.store
  split
  · exact Memory.lookup_insert_ne m v h
  · rfl

theorem Memory.store_outside (m : Memory) {i : Nat} (v : Sample) (h : Config.frameMax ≤ i) :
    m.store i v = m := by
  simp [Memory.store, Nat.not_lt.mpr h]

/-! ### BUF on the state -/

/-- A read after a write to the same entry of BUF gives the sample written. -/
theorem bufRead_bufWrite_self (s : State) {i : Nat} (v : Sample) (h : i < Config.frameMax) :
    bufRead (bufWrite s i v) i = v := by
  simp [bufRead, bufWrite, Memory.lookup_store_self _ v h]

/-- A write leaves every other entry of BUF alone. -/
theorem bufRead_bufWrite_ne (s : State) {i j : Nat} (v : Sample) (h : j ≠ i) :
    bufRead (bufWrite s i v) j = bufRead s j := by
  simp [bufRead, bufWrite, Memory.lookup_store_ne _ v h]

/-- What a write to BUF leaves in the state: BUF alone changes. -/
theorem bufWrite_eq (s : State) (i : Nat) (v : Sample) :
    bufWrite s i v = { s with buf := s.buf.store i v } := rfl

/-- A read of BUF depends on BUF and its draw alone. -/
theorem bufRead_congr {s t : State} (hb : s.buf = t.buf) (hd : s.bufDraw = t.bufDraw) (i : Nat) :
    bufRead s i = bufRead t i := by
  unfold bufRead; rw [hb, hd]

/-- An entry that is listed reads as listed, whatever the free values are. -/
theorem bufRead_of_lookup {s : State} {i : Nat} {v : Sample} (h : s.buf.lookup i = some v) :
    bufRead s i = v := by
  simp [bufRead, h]

@[simp] theorem bufPrefix_length (s : State) (n : Nat) : (bufPrefix s n).length = n := by
  simp [bufPrefix]

theorem bufPrefix_succ (s : State) (n : Nat) :
    bufPrefix s (n + 1) = bufPrefix s n ++ [bufRead s n] := by
  simp [bufPrefix, List.range_succ]

/-- Two states whose entries below n read alike have the same prefix of n samples. -/
theorem bufPrefix_congr {s t : State} {n : Nat} (h : ∀ i, i < n → bufRead s i = bufRead t i) :
    bufPrefix s n = bufPrefix t n := by
  unfold bufPrefix
  exact List.map_congr_left fun i hi => h i (List.mem_range.mp hi)

/-! ### Emission, command faults and reset -/

theorem emit_eq (s : State) (m : Message) : emit s m = { s with frameOut := s.frameOut ++ [m] } :=
  rfl

/-- A command fault writes ERR and nothing else. -/
theorem raiseFault_eq (f : CommandFault) (s : State) :
    raiseFault f s = { s with err := recordFault s.err f } := rfl

theorem recordFault_of_ne {err : Byte} (f : CommandFault) (h : err ≠ 0x00) :
    recordFault err f = err := if_neg h

theorem recordFault_zero (f : CommandFault) : recordFault 0x00 f = faultCode f := by
  simp [recordFault]

theorem faultCode_ne_zero (f : CommandFault) : faultCode f ≠ 0x00 := by
  cases f <;> decide

/-- What reset leaves: the block's registers at their reset values, ports and agents as they were. -/
theorem resetBlock_eq (s : State) :
    resetBlock s =
      { s with
        phase := .idle
        frameSize := 0
        fill := 0
        buf := []
        bufDraw := s.bufDraw + 1
        res := 0x00
        err := 0x00 } := rfl

end Sys2Proof.Machine
end

