-- ==== Sys2Proof/Laws/Commands.lean ====
section
/-! SUPPORT. Inversion lemmas: everything a command, a word or a step can do, said once. -/

namespace Sys2Proof.Machine

variable {s t : State}

/-! ### One command -/

/-- START accepts exactly the sizes 1 .. FRAME_MAX. -/
theorem frameSizeLegal_iff (n : Payload) :
    frameSizeLegal n = true ↔ 1 ≤ n.toNat ∧ n.toNat ≤ Config.frameMax := by
  unfold frameSizeLegal uint16
  rw [Bool.and_eq_true]
  exact and_congr decide_eq_true_iff decide_eq_true_iff

theorem execStart_cases {n : Payload} (h : execStart n s = .next t) :
    (s.phase = .active ∧ t = raiseFault .startActive s) ∨
    (s.phase = .idle ∧ frameSizeLegal n = false ∧ t = raiseFault .badFrameSize s) ∨
    (s.phase = .idle ∧ frameSizeLegal n = true ∧
      t = { s with frameSize := n, fill := 0, phase := .active }) := by
  unfold execStart at h
  split at h
  · rename_i hp; exact .inl ⟨hp, (Host.Outcome.next.inj h).symm⟩
  · rename_i hp
    have hp : s.phase = .idle := by cases hq : s.phase <;> simp_all
    split at h
    · rename_i hn; exact .inr (.inr ⟨hp, hn, (Host.Outcome.next.inj h).symm⟩)
    · rename_i hn
      exact .inr (.inl ⟨hp, by simpa using hn, (Host.Outcome.next.inj h).symm⟩)

theorem frameCompletes_bufWrite (s : State) (i : Nat) (v : Sample) :
    frameCompletes (bufWrite s i v) = frameCompletes s := by
  simp [frameCompletes, bufWrite]

theorem execPush_cases {p : Payload} (h : execPush p s = .next t) :
    (s.phase = .idle ∧ t = s) ∨
    (s.phase = .active ∧ frameCompletes s = true ∧ t = emitFrame (bufWrite s s.fill.toNat p)) ∨
    (s.phase = .active ∧ frameCompletes s = false ∧
      t = { s with buf := s.buf.store s.fill.toNat p, fill := s.fill + 1 }) := by
  unfold execPush at h
  split at h
  · rename_i hp; exact .inl ⟨hp, (Host.Outcome.next.inj h).symm⟩
  · rename_i hp
    simp only [frameCompletes_bufWrite] at h
    split at h
    · rename_i hf; exact .inr (.inl ⟨hp, hf, (Host.Outcome.next.inj h).symm⟩)
    · rename_i hf
      refine .inr (.inr ⟨hp, Bool.eq_false_iff.mpr hf, ?_⟩)
      rw [← Host.Outcome.next.inj h]
      simp [bufWrite, State.setFill, State.setBuf]

/-- PUSH in Active, as one equation. -/
theorem execPush_active {p : Payload} (h : s.phase = .active) :
    execPush p s = .next (if frameCompletes s = true then emitFrame (bufWrite s s.fill.toNat p)
      else { s with buf := s.buf.store s.fill.toNat p, fill := s.fill + 1 }) := by
  unfold execPush
  simp only [h, frameCompletes_bufWrite]
  split
  · rfl
  · simp [bufWrite, State.setFill, State.setBuf, h]

/-- What emission leaves: one message more on FRAME_OUT, FILL = 0, all else as it was. -/
theorem emitFrame_eq (s : State) :
    emitFrame s = { s with fill := 0, frameOut := s.frameOut ++
      [encodeFrame (bufPrefix s s.frameSize.toNat)] } := rfl

theorem execStop_cases {p : Payload} (h : execStop p s = .next t) :
    (p ≠ 0 ∧ t = raiseFault .reservedPayload s) ∨
    (p = 0 ∧ s.phase = .idle ∧ t = s) ∨
    (p = 0 ∧ s.phase = .active ∧ t = { s with fill := 0, phase := .idle }) := by
  unfold execStop at h
  split at h
  · rename_i hp; exact .inl ⟨hp, (Host.Outcome.next.inj h).symm⟩
  · rename_i hp
    have hp := Classical.not_not.mp hp
    split at h
    · rename_i hq; exact .inr (.inl ⟨hp, hq, (Host.Outcome.next.inj h).symm⟩)
    · rename_i hq; exact .inr (.inr ⟨hp, hq, (Host.Outcome.next.inj h).symm⟩)

theorem execEnc_cases {p : Payload} (h : execEnc p s = .next t) :
    t = { s with res := alawEncode p } := by
  simp only [execEnc, Host.Outcome.next.injEq] at h
  exact h.symm

theorem execSegrd_cases {p : Payload} (h : execSegrd p s = .next t) :
    (segrdReserved p ≠ 0 ∧ t = raiseFault .reservedPayload s) ∨
    (segrdReserved p = 0 ∧ t = { s with res := zext8 (readSeglut (tableIndex p)) }) := by
  unfold execSegrd at h
  split at h
  · rename_i hp; exact .inl ⟨hp, (Host.Outcome.next.inj h).symm⟩
  · rename_i hp
    exact .inr ⟨Classical.not_not.mp hp, (Host.Outcome.next.inj h).symm⟩

/-- No command touches the schedule, the agents or the draw of BUF's unspecified contents. -/
theorem exec_keeps_surroundings {i : Instr} (h : exec i s = .next t) :
    t.inputs = s.inputs ∧ t.env = s.env ∧ t.bufDraw = s.bufDraw := by
  cases i with
  | start n => rcases execStart_cases h with ⟨_, rfl⟩ | ⟨_, _, rfl⟩ | ⟨_, _, rfl⟩ <;> simp [raiseFault]
  | push p =>
    rcases execPush_cases h with ⟨_, rfl⟩ | ⟨_, _, rfl⟩ | ⟨_, _, rfl⟩ <;>
      simp [emitFrame, emit, bufWrite]
  | stop p => rcases execStop_cases h with ⟨_, rfl⟩ | ⟨_, _, rfl⟩ | ⟨_, _, rfl⟩ <;> simp [raiseFault]
  | enc p => cases execEnc_cases h; simp
  | segrd p => rcases execSegrd_cases h with ⟨_, rfl⟩ | ⟨_, rfl⟩ <;> simp [raiseFault]

/-! ### One word -/

theorem runWord_cases {c : CmdWord} (h : runWord c s = .next t) :
    (∃ i, decode c = .command i ∧ exec i s = .next t) ∨
    (∃ f, decode c = .illegal f ∧ t = raiseFault f s) := by
  unfold runWord at h
  cases hd : decode c with
  | command i => simp only [hd] at h; exact .inl ⟨i, rfl, h⟩
  | illegal f =>
    simp only [hd, Host.Outcome.next.injEq] at h
    exact .inr ⟨f, rfl, h.symm⟩

theorem handOff_cases {o : Host.Outcome State Fault Refusal} (h : handOff o = .next t) :
    ∃ u, o = .next u ∧ t = consumeFrames u := by
  cases o with
  | next u => simp only [handOff, Host.Outcome.next.injEq] at h; exact ⟨u, rfl, h.symm⟩
  | fault r => cases r
  | refused r => simp [handOff] at h

/-! ### One step -/

/-- The state in which a step's input is accepted: the input is off the schedule, and so is the
controller's command or the delivered sample where the step accepts one. -/
def accepting (s : State) : State :=
  match s.inputs with
  | .issued :: rest => { s with inputs := rest, env := { s.env with outbox := s.env.outbox.tail } }
  | .blockSample :: rest =>
    { s with inputs := rest, env := if s.env.readySample.isSome then s.env.dropSample else s.env }
  | .command _ :: rest | .serialSample _ _ :: rest | .reset _ :: rest | .env _ :: rest =>
    { s with inputs := rest }
  | [] => s

theorem accepting_block (s : State) :
    (accepting s).phase = s.phase ∧ (accepting s).frameSize = s.frameSize ∧
    (accepting s).fill = s.fill ∧ (accepting s).buf = s.buf ∧ (accepting s).bufDraw = s.bufDraw ∧
    (accepting s).res = s.res ∧ (accepting s).err = s.err ∧ (accepting s).frameOut = s.frameOut := by
  unfold accepting
  split <;> simp

theorem accepting_env (s : State) :
    (accepting s).env = { s.env with
      outbox := (accepting s).env.outbox
      captured := (accepting s).env.captured } := by
  unfold accepting
  split
  · rfl
  · dsimp only; split <;> rfl
  all_goals rfl

/-- Every next state of a step: a presented word has run and its frames are taken, or the block
was reset, or an agent moved, or nothing was presented and nothing changed. -/
theorem step_cases (h : step s = .next t) :
    (∃ c u, presented s = some c ∧ runWord c (accepting s) = .next u ∧ t = consumeFrames u) ∨
    (presentsReset s = true ∧ t = resetBlock (accepting s)) ∨
    (∃ e rest, s.inputs = .env e :: rest ∧ t = { s with inputs := rest, env := s.env.apply e }) ∨
    (presented s = none ∧ presentsReset s = false ∧ presentsEnv s = false ∧ t = accepting s) := by
  unfold step nextStep at h
  unfold presented presentsReset presentsEnv accepting
  cases hi : s.inputs with
  | nil => simp only [hi, Host.Outcome.next.injEq] at h; simp [h]
  | cons x rest =>
    simp only [hi, acceptInput] at h
    cases x with
    | command c => obtain ⟨u, hu, ht⟩ := handOff_cases h; exact .inl ⟨c, u, rfl, hu, ht⟩
    | serialSample a b => obtain ⟨u, hu, ht⟩ := handOff_cases h; exact .inl ⟨_, u, rfl, hu, ht⟩
    | issued =>
      cases ho : s.env.outbox with
      | nil =>
        simp only [State.setInputs, ho, Host.Outcome.next.injEq] at h
        refine .inr (.inr (.inr ⟨rfl, rfl, rfl, ?_⟩))
        rw [← h]
        simp only [State.mk.injEq, true_and]
        cases he : s.env; simp_all
      | cons c cs =>
        simp only [State.setInputs, ho] at h
        obtain ⟨u, hu, ht⟩ := handOff_cases h
        exact .inl ⟨c, u, rfl, by simpa [ho, State.setEnv] using hu, ht⟩
    | blockSample =>
      cases hr : s.env.readySample with
      | none =>
        simp only [State.setInputs, hr, Host.Outcome.next.injEq] at h
        refine .inr (.inr (.inr ⟨rfl, rfl, rfl, ?_⟩))
        simpa using h.symm
      | some p =>
        simp only [State.setInputs, hr] at h
        obtain ⟨u, hu, ht⟩ := handOff_cases h
        exact .inl ⟨_, u, rfl, by simpa [State.setEnv] using hu, ht⟩
    | reset c =>
      simp only [Host.Outcome.next.injEq] at h
      exact .inr (.inl ⟨rfl, h.symm⟩)
    | env e =>
      simp only [Host.Outcome.next.injEq] at h
      exact .inr (.inr (.inl ⟨e, rest, rfl, h.symm⟩))

/-! ### A run -/

/-- A run's first step, where it answers a next state. -/
theorem run_next {k : Nat} (h : step s = .next t) :
    Host.Core.run core (k + 1) s = Host.Core.run core k t := by
  have hc : core.step s = .next t := h
  simp only [Host.Core.run, hc]

end Sys2Proof.Machine
end

