-- ==== Sys2Proof/Laws/PerInstr.lean ====
section
/-! SUPPORT. Statements made of every command as syntax: its encoding holds its opcode in bits
19:16 and its payload in bits 15:0 (spec/30_encoding.md R63), so no payload bit is dropped. -/

namespace Sys2Proof.Laws.EncodedFields

/-- The two fields of a command's word are the command's own. -/
def Statement (i : Instr) : Prop :=
  opField (encode i) = i.opcode ∧ payloadField (encode i) = i.payload

theorem bit_of_append (op : BitVec 4) (p : Payload) (k : Nat) :
    (op ++ p : CmdWord).getLsbD k = if k < 16 then p.getLsbD k else op.getLsbD (k - 16) := by
  refine (BitVec.getLsbD_append (x := op) (y := p) (i := k)).trans ?_
  split <;> simp_all

theorem fields_of_append (op : BitVec 4) (p : Payload) :
    opField (op ++ p) = op ∧ payloadField (op ++ p) = p := by
  constructor
  · apply BitVec.eq_of_getLsbD_eq
    intro k hk
    rw [opField, BitVec.getLsbD_extractLsb', bit_of_append]
    simp [hk]
  · apply BitVec.eq_of_getLsbD_eq
    intro k hk
    rw [payloadField, BitVec.getLsbD_extractLsb', bit_of_append]
    simp [hk]

theorem start (n : Payload) : Statement (.start n) := fields_of_append _ n
theorem push (s : Payload) : Statement (.push s) := fields_of_append _ s
theorem stop (payload : Payload) : Statement (.stop payload) := fields_of_append _ payload
theorem enc (s : Payload) : Statement (.enc s) := fields_of_append _ s
theorem segrd (payload : Payload) : Statement (.segrd payload) := fields_of_append _ payload

end Sys2Proof.Laws.EncodedFields
end

