-- ==== Sys2Proof/Laws/Pipeline.lean ====
section
/-! SUPPORT. What the FRAME_OUT consumer does with a step's messages, field by field, and what
the controller's and the transport's moves leave alone. -/

namespace Sys2Proof.Machine

/-- Taking messages writes `taken`, and with CONN Open also `sent` and `inFlight`, and nothing else. -/
theorem foldl_take (ms : List Message) (e : Env) :
    ms.foldl Env.take e =
      { e with
        taken := e.taken ++ ms
        sent := if e.conn = .opened then e.sent ++ ms else e.sent
        inFlight := if e.conn = .opened then e.inFlight ++ ms else e.inFlight } := by
  induction ms generalizing e with
  | nil => simp
  | cons m ms ih =>
    rw [List.foldl_cons, ih]
    cases hc : e.conn <;> simp [Env.take, hc]

@[simp] theorem foldl_take_conn (ms : List Message) (e : Env) :
    (ms.foldl Env.take e).conn = e.conn := by rw [foldl_take]

@[simp] theorem foldl_take_taken (ms : List Message) (e : Env) :
    (ms.foldl Env.take e).taken = e.taken ++ ms := by rw [foldl_take]

/-- The end of a step touches only FRAME_OUT and the agents. -/
theorem consumeFrames_eq (s : State) :
    consumeFrames s = { s with env := s.frameOut.foldl Env.take s.env, frameOut := [] } := rfl

/-- A delivered sample is ready exactly when no START waits and it is the oldest. -/
theorem readySample_eq_some {e : Env} {p : Sample} :
    e.readySample = some p ↔
      (∀ c ∈ e.outbox, isStartWord c = false) ∧ e.captured.head? = some p := by
  unfold Env.readySample
  split
  · rename_i h
    obtain ⟨c, hc, hs⟩ := List.any_eq_true.mp h
    exact ⟨fun h => (nomatch h), fun h => absurd (h.1 c hc) (by simp [hs])⟩
  · rename_i h
    have hn : ∀ c ∈ e.outbox, isStartWord c = false := by simpa using h
    exact ⟨fun h => ⟨hn, h⟩, fun h => h.2⟩

/-- A callback outside capture delivers nothing. -/
@[simp] theorem deliverBlock_idle {e : Env} (h : e.ctrl = .idle) (b : List Sample) :
    e.deliverBlock b = e := by simp [Env.deliverBlock, h]

/-- A callback while capturing delivers its block behind what is on its way, and nothing else. -/
@[simp] theorem deliverBlock_capturing {e : Env} (h : e.ctrl = .capturing) (b : List Sample) :
    e.deliverBlock b = { e with captured := e.captured ++ b } := by simp [Env.deliverBlock, h]

/-- No agent's move takes or transmits a message: only the block's emission does. -/
theorem apply_keeps_messages (e : Env) (ev : EnvEvent) :
    (e.apply ev).taken = e.taken ∧ (e.apply ev).sent = e.sent := by
  have hclose : e.closeConn.taken = e.taken ∧ e.closeConn.sent = e.sent := by
    unfold Env.closeConn; split <;> exact ⟨rfl, rfl⟩
  have hstop : e.controllerStop.taken = e.taken ∧ e.controllerStop.sent = e.sent := hclose
  cases ev with
  | startCall n => simp only [Env.apply, Env.controllerStart]; split <;> exact ⟨rfl, rfl⟩
  | acquired g =>
    simp only [Env.apply, Env.acquisition]
    split
    · exact ⟨rfl, rfl⟩
    · split <;> exact ⟨rfl, rfl⟩
  | audioCallback b => simp only [Env.apply, Env.deliverBlock]; split <;> exact ⟨rfl, rfl⟩
  | stopCall => exact hstop
  | sourceEnded => simp only [Env.apply, Env.captureEnds]; split; exacts [⟨rfl, rfl⟩, hstop]
  | seesClosed => simp only [Env.apply, Env.watchClosed]; split; exacts [hstop, ⟨rfl, rfl⟩]
  | openCall => exact ⟨rfl, rfl⟩
  | established => simp only [Env.apply, Env.establish]; split <;> exact ⟨rfl, rfl⟩
  | connFailed => simp only [Env.apply, Env.failConn]; split <;> exact ⟨rfl, rfl⟩
  | closeCall => exact hclose
  | closeConfirmed => simp only [Env.apply, Env.confirmClose]; split <;> exact ⟨rfl, rfl⟩
  | delivered => simp only [Env.apply, Env.deliver]; split <;> exact ⟨rfl, rfl⟩
  | lost => simp only [Env.apply, Env.lose]; split <;> exact ⟨rfl, rfl⟩

end Sys2Proof.Machine
end

