-- ==== Sys2Proof/Tests/Slice0.lean ====
section
/-! SUPPORT. The model's own tests, their expected results from the spec's vectors
(spec/95_test_vectors.md, spec/30_encoding.md R71), and for each obligation with hypotheses a
state and operands that meet them. -/

open Sys2Proof Sys2Proof.Machine

namespace Sys2Proof.Tests

/-- The next state of an outcome. -/
def nextState (o : Host.Outcome State Fault Refusal) : Option State :=
  match o with
  | .next s => some s
  | .fault _ => none
  | .refused _ => none

/-- An outcome with a next state is that next state. -/
theorem next_of_isSome {o : Host.Outcome State Fault Refusal} (h : (nextState o).isSome = true) :
    ∃ t, o = .next t := by
  cases o with
  | next s => exact ⟨s, rfl⟩
  | fault r => cases r
  | refused r => cases h

/-- A session of frame size n with f samples buffered. -/
def session (n f : Nat) (b : Memory) : State :=
  { State.reset with
    phase := .active
    frameSize := BitVec.ofNat 16 n
    fill := BitVec.ofNat 16 f
    buf := b }

/-- The golden frame's first four samples, as T11 holds them. -/
def golden : State :=
  session 5 4 [(0, 0), (1, 256), (2, BitVec.ofInt 16 (-256)), (3, BitVec.ofInt 16 32767)]

/-- A state with one input presented. -/
def withInput (s : State) (x : Input) : State := { s with inputs := [x] }

/-! ### Well-formedness: each check refuses an ill-formed term -/

theorem test_stop_payload_ill_formed : (Instr.stop 1).wellFormed = false := by decide
theorem test_segrd_index_128_ill_formed : (Instr.segrd 0x0080).wellFormed = false := by decide
theorem test_well_formed :
    (Instr.start 0).wellFormed && (Instr.push 0xFFFF).wellFormed && (Instr.stop 0).wellFormed
      && (Instr.enc 0x8000).wellFormed && (Instr.segrd 0x007F).wellFormed = true := by decide

/-! ### Decoding: words written out from the format OP[19:16], PAYLOAD[15:0] (R63, R64) -/

theorem test_decode_start : decode 0b00010000000100000001 = .command (.start 257) := by decide
theorem test_decode_push : decode 0b00101111111100000000 = .command (.push 0xFF00) := by decide
theorem test_decode_stop : decode 0b00110000000000000000 = .command (.stop 0) := by decide
theorem test_decode_enc : decode 0b01001000000000000001 = .command (.enc 0x8001) := by decide
theorem test_decode_segrd : decode 0b01010000000001000000 = .command (.segrd 64) := by decide
theorem test_decode_stop_reserved : decode 0x38000 = .illegal .reservedPayload := by decide
theorem test_decode_segrd_reserved : decode 0x50080 = .illegal .reservedPayload := by decide
theorem test_decode_opcode_before_payload : decode 0x6FFFF = .illegal .reservedOpcode := by decide
theorem test_decode_idle_bus : decode 0x00000 = .illegal .reservedOpcode := by decide
theorem test_decode_table_word : decodeTableWord 24 0x2FFFF = some (.push 0xFFFF) := by decide
theorem test_decode_table_word_too_wide : decodeTableWord 24 0x120000 = none := by decide

/-! ### The encoder (V7, V35, V45, V48; section 2's row 0x55) -/

theorem test_encode_256 : alawEncode 256 = 0xC5 := by decide
theorem test_encode_minus_256 : alawEncode (BitVec.ofInt 16 (-256)) = 0x45 := by decide
theorem test_encode_minimum : alawEncode 0x8000 = 0x2A := by decide
theorem test_encode_12345 : alawEncode 12345 = 0xBD := by decide
theorem test_encode_5631_and_5632 : alawEncode 5631 = 0x80 ∧ alawEncode 5632 = 0x83 := by decide

/-! ### Commands (V30, L9, L15, T3, T6, T7, T10, T11, T13, T17, T22) -/

theorem test_enc_minus_one :
    (nextState (exec (.enc 0xFFFF) golden)).map (·.res) = some 0x55 := by decide
theorem test_segrd_16 :
    (nextState (exec (.segrd 16) golden)).map (·.res) = some 0x05 := by decide
theorem test_segrd_128_faults :
    (nextState (exec (.segrd 128) golden)).map (fun t => (t.res, t.err)) = some (0x00, 0x04) := by
  decide
theorem test_start_zero :
    (nextState (exec (.start 0) State.reset)).map (fun t => (t.phase, t.err)) =
      some (.idle, 0x03) := by decide
theorem test_start_zero_in_active :
    (nextState (exec (.start 0) (session 5 2 []))).map (fun t => (t.fill, t.err)) =
      some (2, 0x02) := by decide
theorem test_push_stores :
    (nextState (exec (.push 7) (session 5 0 []))).map (fun t => (t.fill, t.buf.lookup 0)) =
      some (1, some 7) := by decide +kernel
theorem test_push_golden_frame :
    (nextState (exec (.push 0x8000) golden)).map (fun t => (t.fill, t.frameOut)) =
      some (0, [[0xD5, 0xC5, 0x45, 0xAA, 0x2A]]) := by decide +kernel
theorem test_stop_active :
    (nextState (exec (.stop 0) (session 3 2 []))).map (fun t => (t.phase, t.frameSize, t.fill)) =
      some (.idle, 3, 0) := by decide
theorem test_stop_payload_keeps_session :
    (nextState (exec (.stop 1) (session 3 1 []))).map (fun t => (t.phase, t.fill, t.err)) =
      some (.active, 1, 0x04) := by decide
theorem test_first_fault_kept :
    (nextState (exec (.start 0) { session 3 1 [] with err := 0x03 })).map (·.err) =
      some 0x03 := by decide

/-! ### Steps (Z2, Z3, G-1, G-2) and the agents (G-7, G-8) -/

/-- T12: a one-byte frame, with CONN as given. -/
def oneByte (c : Conn) : State :=
  withInput { session 1 0 [] with env := { Env.reset with conn := c } } (.command 0x2FFF0)

theorem test_send_when_open :
    (nextState (step (oneByte .opened))).map (fun t => (t.env.taken, t.env.sent, t.frameOut)) =
      some ([[0x54]], [[0x54]], []) := by decide +kernel
theorem test_drop_when_connecting :
    (nextState (step (oneByte .connecting))).map (fun t => (t.env.taken, t.env.sent)) =
      some ([[0x54]], []) := by decide +kernel
theorem test_reset_beats_push :
    (nextState (step (withInput golden (.reset (some 0x20005))))).map
      (fun t => (t.phase, t.fill, t.frameSize, t.env.taken)) = some (.idle, 0, 0, []) := by decide
theorem test_status_after_pushes :
    status { session 2 1 [] with err := 0x03 } = 0x00010301 := by decide
theorem test_close_while_connecting :
    ((Env.reset.apply .openCall).apply .closeCall).conn = .closing := by decide
theorem test_close_when_closed : (Env.reset.apply .closeCall).conn = .closed := by decide
theorem test_fetch_word_runs :
    (nextState (step (State.reset.withFetchWord 24 0x40000))).map (·.res) = some 0xD5 := by decide

/-- R155: a granted request issues START, and a callback's block waits behind it (R174). -/
theorem test_callback_behind_start :
    let e := ((Env.reset.apply (.startCall 5)).apply (.acquired true)).apply (.audioCallback [7, 8])
    (e.outbox, e.captured, e.readySample, { e with outbox := [] }.readySample) =
      ([0x10005], [7, 8], none, some 7) := by decide
/-- R137, R102: the rest of a block arrives after STOP and is ignored; no callback in Idle. -/
theorem test_late_sample_ignored :
    (nextState (step { State.reset with
      env := { Env.reset with captured := [7, 8] }, inputs := [.blockSample] })).map
      (fun t => (t.phase, t.err, t.env.captured, t.env.taken)) = some (.idle, 0, [8], []) := by
  decide +kernel
theorem test_no_callback_in_idle :
    (Env.reset.apply (.audioCallback [7])).captured = [] := by decide

/-! ### Witnesses: the obligations' hypotheses can be met -/

theorem witness_decode_table :
    (∃ c i, decode c = .command i) ∧ (∃ c f, decode c = .illegal f) :=
  ⟨⟨0x20000, .push 0, by decide⟩, ⟨0x00000, .reservedOpcode, by decide⟩⟩

theorem witness_table_contents :
    (∃ i : BitVec 7, 1 ≤ i.toNat) ∧ (∃ mag : Nat, 256 ≤ mag ∧ mag ≤ 32635) :=
  ⟨⟨127, by decide⟩, ⟨32635, by decide⟩⟩

theorem witness_entry_zero :
    ∃ lut : BitVec 7 → BitVec 3, lut ≠ readSeglut ∧ ∀ i, i ≠ 0 → lut i = readSeglut i := by
  refine ⟨fun i => if i = 0 then 7 else readSeglut i, fun h => ?_, fun i hi => if_neg hi⟩
  have h0 := congrFun h 0
  revert h0
  decide

theorem witness_segments :
    (∃ s : Sample, min s.toInt.natAbs 32635 < 256) ∧
    (∃ s : Sample, 256 ≤ min s.toInt.natAbs 32635) := ⟨⟨255, by decide⟩, ⟨256, by decide⟩⟩

theorem witness_saturation :
    (∃ s : Sample, 32635 ≤ s.toInt.natAbs) ∧ (∃ mag : Nat, 31744 ≤ mag ∧ mag ≤ 32767) :=
  ⟨⟨0x7F7B, by decide⟩, ⟨31744, by decide⟩⟩

theorem witness_symmetry :
    (∃ v : Int, 1 ≤ v.natAbs ∧ v.natAbs ≤ 32767) ∧
    (∃ a b : Int, 0 ≤ a ∧ a ≤ b ∧ b ≤ 32767) := ⟨⟨-32767, by decide⟩, ⟨0, 32767, by decide⟩⟩

theorem witness_segrd :
    (∃ p : Payload, p.toNat < 128) ∧ (∃ p : Payload, 128 ≤ p.toNat) :=
  ⟨⟨127, by decide⟩, ⟨128, by decide⟩⟩

theorem witness_repeated_commands :
    (∃ t, exec (.enc 256) golden = .next t) ∧ (∃ t, exec (.segrd 128) golden = .next t) ∧
    (∃ t, exec (.stop 0) golden = .next t) := ⟨⟨_, rfl⟩, ⟨_, rfl⟩, ⟨_, rfl⟩⟩

/-- START's boundary sizes 1 and FRAME_MAX, the bad size 0, and a session already open. -/
theorem witness_start :
    State.reset.phase = .idle ∧
    (∃ n : Payload, n.toNat = 1 ∧ n.toNat ≤ Config.frameMax) ∧
    (∃ n : Payload, 1 ≤ n.toNat ∧ n.toNat = Config.frameMax) ∧
    (∃ n : Payload, n.toNat = 0 ∨ Config.frameMax < n.toNat) ∧ golden.phase = .active := by
  have h1 := frameMax_ge
  have h2 := frameMax_le
  have h3 : (BitVec.ofNat 16 Config.frameMax).toNat = Config.frameMax := by
    rw [BitVec.toNat_ofNat, Nat.mod_eq_of_lt (by omega)]
  refine ⟨rfl, ⟨1, by decide, ?_⟩, ⟨BitVec.ofNat 16 Config.frameMax, ?_, h3⟩, ⟨0, .inl (by decide)⟩, rfl⟩
  · have : (1 : Payload).toNat = 1 := by decide
    omega
  · omega

theorem witness_push_idle : State.reset.phase = .idle := rfl

/-- The first entry of BUF, and the last before the frame completes. -/
theorem witness_push_stores :
    (session 5 0 []).phase = .active ∧ (session 5 0 []).fill.toNat < Config.frameMax ∧
    (session 5 0 []).fill.toNat + 1 ≠ (session 5 0 []).frameSize.toNat := by
  have h := frameMax_ge
  have h0 : (session 5 0 []).fill.toNat = 0 := by decide
  exact ⟨rfl, by omega, by decide⟩

theorem witness_push_completes :
    golden.phase = .active ∧ golden.fill.toNat < Config.frameMax ∧
    golden.fill.toNat + 1 = golden.frameSize.toNat := by
  have h := frameMax_ge
  have h0 : golden.fill.toNat = 4 := by decide
  exact ⟨rfl, by omega, by decide⟩

/-- An Active state in each branch: a frame completes, or FILL advances; and one, which R33 rules
out, whose FILL of 65535 names no entry of BUF whatever FRAME_MAX is. -/
theorem witness_push_active :
    golden.phase = .active ∧ golden.fill.toNat + 1 = golden.frameSize.toNat ∧
    (session 5 3 []).phase = .active ∧
    (session 5 3 []).fill.toNat + 1 ≠ (session 5 3 []).frameSize.toNat ∧
    (session 0 65535 []).phase = .active ∧ Config.frameMax ≤ (session 0 65535 []).fill.toNat := by
  have h := frameMax_le
  have h0 : (session 0 65535 []).fill.toNat = 65535 := by decide
  exact ⟨rfl, by decide, rfl, by decide, rfl, by omega⟩

theorem witness_stop :
    golden.phase = .active ∧ State.reset.phase = .idle ∧ (∃ p : Payload, p ≠ 0) :=
  ⟨rfl, rfl, ⟨1, by decide⟩⟩

/-- A step that emits, and one that does not, from an empty FRAME_OUT. -/
theorem witness_emission :
    (oneByte .opened).frameOut = [] ∧ (∃ t, step (oneByte .opened) = .next t) ∧
    (oneByte .opened).phase = .active ∧
    (oneByte .opened).fill.toNat + 1 = (oneByte .opened).frameSize.toNat ∧
    presented (oneByte .opened) = some 0x2FFF0 ∧
    decode 0x2FFF0 = .command (.push 0xFFF0) ∧
    State.reset.frameOut = [] ∧ (∃ t, step State.reset = .next t) :=
  ⟨rfl, ⟨_, rfl⟩, rfl, by decide, rfl, by decide, rfl, ⟨_, rfl⟩⟩

/-- A session that the invariant admits, at the boundary FILL = FRAMESIZE - 1, all of its samples
written. -/
theorem witness_session_and_buffer :
    SessionInv golden ∧ BufferInv golden ∧ golden.phase = .active ∧ golden.frameOut = [] ∧
    (∃ t, step golden = .next t) := by
  have h := frameMax_ge
  refine ⟨⟨fun h => (by cases h), fun _ => ⟨by decide, ?_, by decide⟩⟩, ⟨⟨by decide, ?_⟩, ?_⟩, rfl,
    rfl, ⟨_, rfl⟩⟩
  · have : golden.frameSize.toNat = 5 := by decide
    omega
  · intro e he
    have hlt : e.1 < 4 := by
      have hall : ∀ x ∈ golden.buf, x.1 < 4 := by decide
      exact hall e he
    omega
  · have h4 : golden.fill.toNat = 4 := by decide
    rw [h4]
    decide

theorem witness_session_count :
    State.reset.phase = .idle ∧ (2 : Payload).toNat = 2 ∧ 1 ≤ (2 : Payload).toNat ∧
    (2 : Payload).toNat ≤ Config.frameMax ∧ 1 < (2 : Payload).toNat ∧
    ([[1, 2, 3], [], [4, 5]] : List (List Sample)).flatten.length = 2 * (2 : Payload).toNat + 1 := by
  have h := frameMax_ge
  have h2 : (2 : Payload).toNat = 2 := by decide
  exact ⟨rfl, h2, by decide, by omega, by decide, by decide⟩

theorem witness_after_stop :
    (∃ u, exec (.stop 0) golden = .next u ∧
      ∃ t, execAll [.push 1, .enc 2, .stop 0, .segrd 3] u = .next t) ∧
    ∀ i ∈ [Instr.push 1, .enc 2, .stop 0, .segrd 3], isStart i = false :=
  ⟨⟨_, rfl, ⟨_, rfl⟩⟩, by decide⟩

/-- An accepted START changes FRAMESIZE, and a session runs on without STOP. -/
theorem witness_frame_size :
    (∃ t, exec (.start 1) State.reset = .next t ∧ t.frameSize ≠ State.reset.frameSize) ∧
    golden.phase = .active ∧ (∀ i ∈ [Instr.push 1, .start 2], isStop i = false) ∧
    (∃ t, execAll [.push 1, .start 2] golden = .next t) := by
  have h : frameSizeLegal 1 = true :=
    (frameSizeLegal_iff 1).mpr ⟨by decide, by
      have h1 : (1 : Payload).toNat = 1 := by decide
      have h2 := frameMax_ge
      omega⟩
  refine ⟨⟨_, by simp only [exec, execStart, h]; rfl, by decide⟩, rfl, by decide, ⟨_, rfl⟩⟩

theorem witness_discarded :
    State.reset.phase = .idle ∧ (∃ t, execAll [.push 1, .enc 2] State.reset = .next t) :=
  ⟨rfl, ⟨_, rfl⟩⟩

theorem witness_command_next : ∃ t, exec (.push 1) golden = .next t := ⟨_, rfl⟩

theorem witness_faults :
    (withInput golden (.command 0x10000)).frameOut = [] ∧
    (withInput golden (.command 0x10000)).inputs = [.command 0x10000] ∧
    faultOf 0x10000 golden.phase = some .startActive ∧
    faultOf 0x30001 golden.phase = some .reservedPayload ∧
    faultOf 0x5FFFF golden.phase = some .reservedPayload ∧
    faultOf 0x0FFFF golden.phase = some .reservedOpcode ∧
    faultOf 0x60000 golden.phase = some .reservedOpcode ∧
    faultOf 0x10000 State.reset.phase = some .badFrameSize ∧
    faultOf 0x20000 golden.phase = none :=
  ⟨rfl, rfl, by decide, by decide, by decide, by decide, by decide, by decide, by decide⟩

/-- A reset with an error recorded, an error kept, and a first error. -/
theorem witness_first_fault :
    (∃ t, step (withInput { golden with err := 3 } (.reset none)) = .next t) ∧
    presentsReset (withInput { golden with err := 3 } (.reset none)) = true ∧
    presentsReset (withInput { golden with err := 3 } (.command 0)) = false ∧
    ({ golden with err := 3 } : State).err ≠ 0 ∧ ({ golden with err := 3 } : State).err.toNat ≤ 4 ∧
    golden.err = 0 ∧
    (nextState (step (withInput golden (.command 0)))).map (·.err) = some 0x01 :=
  ⟨⟨_, rfl⟩, rfl, rfl, by decide, by decide, rfl, by decide⟩

theorem witness_reset_input :
    (withInput golden (.reset (some 0x20005))).inputs = [.reset (some 0x20005)] := rfl

theorem witness_step_runs :
    (withInput golden (.command 0x20001)).inputs = [.command 0x20001] ∧
    decode 0x20001 = .command (.push 1) ∧
    (∃ t, exec (.push 1) { withInput golden (.command 0x20001) with inputs := [] } = .next t) ∧
    decode 0x30001 = .illegal .reservedPayload ∧ golden.frameOut = [] :=
  ⟨rfl, by decide, ⟨_, rfl⟩, by decide, rfl⟩

/-- A session with the given words issued and samples delivered, and one input presented. -/
def waiting (outbox : List CmdWord) (captured : List Sample) (x : Input) : State :=
  { withInput golden x with
    env := { Env.reset with
      ctrl := .capturing
      source := true
      outbox := outbox
      captured := captured } }

/-- With STOP alone in the outbox no START waits. -/
theorem only_stop : ∀ c ∈ [(0x30000 : CmdWord)], isStartWord c = false := fun _ hc =>
  List.mem_singleton.mp hc ▸ by decide

/-- For each source of a word one state that meets its clause's hypotheses together. -/
theorem witness_other_sources :
    State.reset.inputs = [] ∧
    ((waiting [0x30000] [] .issued).inputs = [.issued] ∧
      (waiting [0x30000] [] .issued).env.outbox = [0x30000]) ∧
    ((waiting [] [] .issued).inputs = [.issued] ∧ (waiting [] [] .issued).env.outbox = []) ∧
    ((waiting [0x30000] [7] .blockSample).inputs = [.blockSample] ∧
      (waiting [0x30000] [7] .blockSample).env.captured = [7] ∧
      ∀ c ∈ (waiting [0x30000] [7] .blockSample).env.outbox, isStartWord c = false) ∧
    ((waiting [] [] .blockSample).inputs = [.blockSample] ∧
      (waiting [] [] .blockSample).env.captured = []) ∧
    ((waiting [0x10005] [7] .blockSample).inputs = [.blockSample] ∧
      ∃ c ∈ (waiting [0x10005] [7] .blockSample).env.outbox, isStartWord c = true) ∧
    (withInput golden (.serialSample 1 2)).inputs = [.serialSample 1 2] :=
  ⟨rfl, ⟨rfl, rfl⟩, ⟨rfl, rfl⟩, ⟨rfl, rfl, only_stop⟩, ⟨rfl, rfl⟩,
    ⟨rfl, _, List.mem_singleton.mpr rfl, by decide⟩, rfl⟩

/-- A callback in Idle, and one in a session with nothing on its way. -/
theorem witness_callback :
    Env.reset.ctrl = .idle ∧ (waiting [0x30000] [] .issued).env.ctrl = .capturing ∧
    (waiting [0x30000] [] .issued).env.captured = [] ∧
    ∀ c ∈ (waiting [0x30000] [] .issued).env.outbox, isStartWord c = false :=
  ⟨rfl, rfl, rfl, only_stop⟩

/-- The gate's three cases: a frame taken with CONN Open, with CONN not Open, and no frame. -/
theorem witness_send_gate :
    (oneByte .opened).env.conn = .opened ∧ (oneByte .closing).env.conn ≠ .opened ∧
    (nextState (step (oneByte .opened))).map (·.env.taken) =
      some ((oneByte .opened).env.taken ++ [[0x54]]) ∧
    (nextState (step State.reset)).map (·.env.taken) = some State.reset.env.taken :=
  ⟨rfl, by decide, by decide +kernel, by decide⟩

theorem witness_conn_block_step :
    presentsEnv (oneByte .opened) = false ∧ (∃ t, step (oneByte .opened) = .next t) :=
  ⟨rfl, ⟨_, rfl⟩⟩

theorem witness_controller :
    Env.reset.ctrl = .idle ∧ Env.reset.acquiring = none ∧ Env.reset.source = false ∧
    Env.reset.conn = .closed ∧ Env.reset.captured = [] ∧
    (Env.reset.apply .openCall).conn ≠ .closed ∧
    (Env.reset.apply (.startCall 256)).acquiring.isSome = true ∧
    ((Env.reset.apply (.startCall 256)).apply (.acquired true)).ctrl = .capturing ∧
    (((Env.reset.apply (.startCall 256)).apply (.acquired true)).apply .connFailed).conn = .closed ∧
    (((Env.reset.apply (.startCall 256)).apply (.acquired true)).apply
      .connFailed).establishFailed = true ∧
    ((((Env.reset.apply (.startCall 256)).apply (.acquired true)).apply .established).apply
      .connFailed).establishFailed = false := by decide

theorem witness_env_invariant : EnvInv Env.reset ∧ (∃ t, step State.reset = .next t) :=
  ⟨⟨by decide, by decide, by decide, by decide, by decide, by decide⟩, ⟨_, rfl⟩⟩

/-- stop() with an acquisition pending, then a late grant and a late block (G-5). -/
def cancelled : State :=
  { State.reset with
    env := Env.reset.apply (.startCall 256)
    inputs := [.env .stopCall, .env (.acquired true), .command 0x20001, .issued] }

theorem witness_cancelled :
    cancelled.phase = .idle ∧ cancelled.frameOut = [] ∧ cancelled.env.ctrl = .idle ∧
    cancelled.env.acquiring.isSome = true ∧ (∀ c ∈ cancelled.env.outbox, isStartWord c = false) ∧
    (∀ x ∈ [Input.env (.acquired true), .command 0x20001, .issued],
      Input.startsNothing x = true) ∧
    (∃ t, Host.Core.run core 3 cancelled = .next t) :=
  ⟨rfl, rfl, rfl, rfl, fun c hc => absurd (show c ∈ ([] : List CmdWord) from hc) (by simp),
    by decide, next_of_isSome (by decide +kernel)⟩

/-- After a stop(), with its STOP waiting and a late callback presented. -/
theorem witness_quiet :
    Quiet { State.reset with
      env := Env.reset.apply .stopCall, inputs := [.env (.audioCallback [1]), .blockSample] } ∧
    (∃ t, step { State.reset with
      env := Env.reset.apply .stopCall
      inputs := [.env (.audioCallback [1]), .blockSample] } = .next t) :=
  ⟨⟨rfl, rfl, rfl, rfl, rfl, only_stop, by decide⟩, ⟨_, rfl⟩⟩

end Sys2Proof.Tests
end

section
/-! The bounds of the machine's parameters (spec/00_scope.md). -/

namespace Sys2Proof.Proofs

open Sys2Proof.Machine

/-- Settles O52: FRAME_MAX's lower and upper bound, each a law of Laws/Ops.lean (R10, D6). -/
theorem frameMaxBounds : Obligations.FrameMaxBounds :=
  ⟨frameMax_ge, frameMax_le⟩

end Sys2Proof.Proofs
end

section
/-! What every step keeps of the block: the session and buffer invariants (spec/10_state.md R25,
R33), which reset meets. -/

namespace Sys2Proof.Proofs

open Sys2Proof.Machine

variable {s t : State}

/-! ### An invariant of the block is kept by a step when each command keeps it -/

/-- Taking a step's input touches only the ports and the agents. -/
theorem accepting_eq (s : State) :
    accepting s = { s with inputs := (accepting s).inputs, env := (accepting s).env } := by
  unfold accepting
  split <;> rfl

/-- A predicate on the block alone, which commands and faults keep and reset meets, is kept by
every step. -/
theorem step_keeps {P : State → Prop}
    (hports : ∀ s out ins env, P s → P { s with frameOut := out, inputs := ins, env := env })
    (hexec : ∀ i s t, P s → exec i s = .next t → P t)
    (hfault : ∀ f s, P s → P (raiseFault f s))
    (hreset : ∀ s, P (resetBlock s))
    (hs : P s) (h : step s = .next t) : P t := by
  have hacc : P (accepting s) := by rw [accepting_eq]; exact hports s s.frameOut _ _ hs
  rcases step_cases h with ⟨c, u, _, hrun, rfl⟩ | ⟨_, rfl⟩ | ⟨e, rest, _, rfl⟩ | ⟨_, _, _, rfl⟩
  · have hu : P u := by
      rcases runWord_cases hrun with ⟨i, _, hi⟩ | ⟨f, _, rfl⟩
      · exact hexec i _ u hacc hi
      · exact hfault f _ hacc
    exact hports u [] u.inputs _ hu
  · exact hreset _
  · exact hports s s.frameOut rest _ hs
  · exact hacc

/-! ### The session invariant -/

/-- The second point of R33: an open session has a legal frame size and an incomplete frame. -/
def ActiveSession (s : State) : Prop :=
  s.phase = .active →
    1 ≤ s.frameSize.toNat ∧ s.frameSize.toNat ≤ Config.frameMax ∧ s.fill.toNat < s.frameSize.toNat

theorem frameCompletes_iff : frameCompletes s = true ↔ s.fill.toNat + 1 = s.frameSize.toNat :=
  beq_iff_eq

/-- FILL advances without wrapping while it is below another register. -/
theorem toNat_succ_of_lt {f n : BitVec 16} (h : f.toNat < n.toNat) :
    (f + 1).toNat = f.toNat + 1 := by
  have hn := n.isLt
  rw [BitVec.toNat_add]
  exact Nat.mod_eq_of_lt (show f.toNat + 1 < 2 ^ 16 by omega)

/-- FILL stays below FRAMESIZE when the frame does not complete. -/
theorem fill_succ_lt (hlt : s.fill.toNat < s.frameSize.toNat) (hc : frameCompletes s = false) :
    (s.fill + 1).toNat < s.frameSize.toNat := by
  have hne : s.fill.toNat + 1 ≠ s.frameSize.toNat := fun h => by
    simp [frameCompletes_iff.mpr h] at hc
  rw [toNat_succ_of_lt hlt]
  omega

theorem exec_keeps_activeSession {i : Instr} (hs : ActiveSession s) (h : exec i s = .next t) :
    ActiveSession t := by
  cases i with
  | start n =>
    rcases execStart_cases h with ⟨_, rfl⟩ | ⟨_, _, rfl⟩ | ⟨_, hn, rfl⟩
    · exact hs
    · exact hs
    · obtain ⟨h1, hmax⟩ := (frameSizeLegal_iff n).mp hn
      exact fun _ => ⟨h1, hmax, h1⟩
  | push p =>
    rcases execPush_cases h with ⟨_, rfl⟩ | ⟨ha, _, rfl⟩ | ⟨ha, hc, rfl⟩
    · exact hs
    · obtain ⟨h1, hmax, _⟩ := hs ha
      exact fun _ => ⟨h1, hmax, h1⟩
    · obtain ⟨h1, hmax, hlt⟩ := hs ha
      exact fun _ => ⟨h1, hmax, fill_succ_lt hlt hc⟩
  | stop p =>
    rcases execStop_cases h with ⟨_, rfl⟩ | ⟨_, _, rfl⟩ | ⟨_, _, rfl⟩
    · exact hs
    · exact hs
    · exact fun ha => nomatch ha
  | enc p => cases execEnc_cases h; exact hs
  | segrd p => rcases execSegrd_cases h with ⟨_, rfl⟩ | ⟨_, rfl⟩ <;> exact hs

theorem exec_keeps_idle_fill {i : Instr} (hs : s.phase = .idle → s.fill = 0)
    (h : exec i s = .next t) : t.phase = .idle → t.fill = 0 := by
  cases i with
  | start n =>
    rcases execStart_cases h with ⟨_, rfl⟩ | ⟨_, _, rfl⟩ | ⟨_, _, rfl⟩
    · exact hs
    · exact hs
    · exact fun _ => rfl
  | push p =>
    rcases execPush_cases h with ⟨_, rfl⟩ | ⟨_, _, rfl⟩ | ⟨ha, _, rfl⟩
    · exact hs
    · exact fun _ => rfl
    · exact fun hi => nomatch ha.symm.trans hi
  | stop p =>
    rcases execStop_cases h with ⟨_, rfl⟩ | ⟨_, _, rfl⟩ | ⟨_, _, rfl⟩
    · exact hs
    · exact hs
    · exact fun _ => rfl
  | enc p => cases execEnc_cases h; exact hs
  | segrd p => rcases execSegrd_cases h with ⟨_, rfl⟩ | ⟨_, rfl⟩ <;> exact hs

theorem exec_keeps_session {i : Instr} (hs : SessionInv s) (h : exec i s = .next t) :
    SessionInv t :=
  ⟨exec_keeps_idle_fill hs.1 h, exec_keeps_activeSession hs.2 h⟩

theorem resetBlock_session (s : State) : SessionInv (resetBlock s) :=
  ⟨fun _ => rfl, fun ha => nomatch ha⟩

/-- Settles O39: each command keeps both points of R33, and reset meets them. -/
theorem stepKeepsSession : Obligations.StepKeepsSession := fun _ _ =>
  step_keeps (fun _ _ _ _ hs => hs) (fun _ _ _ => exec_keeps_session) (fun _ _ hs => hs)
    resetBlock_session

/-! ### The buffer invariant -/

/-- Storing at entry n of BUF, with all entries below n written, leaves all up to n written. -/
theorem isSome_lookup_store {m : Memory} {n : Nat} (p : Sample) (hn : n < Config.frameMax)
    (hw : ∀ j, j < n → (m.lookup j).isSome = true) {j : Nat} (hj : j < n + 1) :
    ((m.store n p).lookup j).isSome = true := by
  rcases Nat.lt_succ_iff_lt_or_eq.mp hj with hlt | rfl
  · rw [Memory.lookup_store_ne m p (Nat.ne_of_lt hlt)]
    exact hw j hlt
  · rw [Memory.lookup_store_self m p hn]
    rfl

/-- With FILL = 0 only BUF's form counts. -/
theorem bufferInv_of_fill_zero (hwf : Memory.wf s.buf) (hf : s.fill = 0) : BufferInv s :=
  ⟨hwf, fun j hj => by simp [hf] at hj⟩

theorem exec_keeps_buffer {i : Instr} (hs : SessionInv s) (hb : BufferInv s)
    (h : exec i s = .next t) : BufferInv t := by
  obtain ⟨_, hactive⟩ := hs
  obtain ⟨hwf, hw⟩ := hb
  cases i with
  | start n =>
    rcases execStart_cases h with ⟨_, rfl⟩ | ⟨_, _, rfl⟩ | ⟨_, _, rfl⟩
    · exact ⟨hwf, hw⟩
    · exact ⟨hwf, hw⟩
    · exact bufferInv_of_fill_zero hwf rfl
  | push p =>
    have hwf' := Memory.store_wf s.buf s.fill.toNat p hwf
    rcases execPush_cases h with ⟨_, rfl⟩ | ⟨_, _, rfl⟩ | ⟨ha, _, rfl⟩
    · exact ⟨hwf, hw⟩
    · exact bufferInv_of_fill_zero hwf' rfl
    · obtain ⟨_, hmax, hlt⟩ := hactive ha
      refine ⟨hwf', fun j hj => isSome_lookup_store p (Nat.lt_of_lt_of_le hlt hmax) hw ?_⟩
      rwa [← toNat_succ_of_lt hlt]
  | stop p =>
    rcases execStop_cases h with ⟨_, rfl⟩ | ⟨_, _, rfl⟩ | ⟨_, _, rfl⟩
    · exact ⟨hwf, hw⟩
    · exact ⟨hwf, hw⟩
    · exact bufferInv_of_fill_zero hwf rfl
  | enc p => cases execEnc_cases h; exact ⟨hwf, hw⟩
  | segrd p => rcases execSegrd_cases h with ⟨_, rfl⟩ | ⟨_, rfl⟩ <;> exact ⟨hwf, hw⟩

theorem resetBlock_buffer (s : State) : BufferInv (resetBlock s) :=
  bufferInv_of_fill_zero Memory.wf_nil rfl

/-- The consumer takes what a step emits, and nothing else writes FRAME_OUT (R150). -/
theorem step_keeps_frameOut_nil (hs : s.frameOut = []) (h : step s = .next t) :
    t.frameOut = [] := by
  have hacc : (accepting s).frameOut = [] := by rw [accepting_eq]; exact hs
  rcases step_cases h with ⟨_, _, _, _, rfl⟩ | ⟨_, rfl⟩ | ⟨_, _, _, rfl⟩ | ⟨_, _, _, rfl⟩
  · rfl
  · exact hacc
  · exact hs
  · exact hacc

/-- Settles O40: the session invariant puts a PUSH's store inside BUF, so that the two invariants
together are kept by every command; the consumer empties FRAME_OUT. -/
theorem stepKeepsBuffer : Obligations.StepKeepsBuffer := by
  intro s t hs hb hout h
  have hboth : SessionInv t ∧ BufferInv t :=
    step_keeps (P := fun s => SessionInv s ∧ BufferInv s) (fun _ _ _ _ hs => hs)
      (fun _ _ _ ⟨hs, hb⟩ hx => ⟨exec_keeps_session hs hx, exec_keeps_buffer hs hb hx⟩)
      (fun _ _ hs => hs) (fun s => ⟨resetBlock_session s, resetBlock_buffer s⟩) ⟨hs, hb⟩ h
  exact ⟨hboth.2, step_keeps_frameOut_nil hout h⟩

/-- Settles O37: in Idle, with FILL = 0 and nothing listed, held, sent or presented, each clause
holds at once. -/
theorem resetMeetsInvariants : Obligations.ResetMeetsInvariants :=
  ⟨⟨fun _ => rfl, fun ha => nomatch ha⟩, bufferInv_of_fill_zero Memory.wf_nil rfl,
    { source_iff := by decide
      acquiring_idle := fun _ => rfl
      acquiring_no_block := fun _ => rfl
      failed_closed := fun _ => rfl
      delivery_order := List.nil_sublist _
      sent_order := List.nil_sublist _ },
    rfl,
    { phase_idle := rfl
      no_frame := rfl
      ctrl_idle := rfl
      no_source := rfl
      none_pending := rfl
      no_start_issued := fun _ hc => nomatch hc
      no_start_presented := fun _ hx => nomatch hx }⟩

end Sys2Proof.Proofs
end

section
/-! What a command reads and writes outside its own registers: it ignores the agents
(spec/10_state.md R34), and BUF reaches an output only through samples of the present session
(R25, R32). -/

namespace Sys2Proof.Proofs

open Sys2Proof.Machine

variable {s t : State} {i : Instr} {b : Memory} {d : Nat} {e : Env}

/-! ### A command on a state with another buffer and other agents -/

/-- State s with another buffer, another draw of its unwritten entries and other agents. -/
def replaced (s : State) (b : Memory) (d : Nat) (e : Env) : State :=
  { s with buf := b, bufDraw := d, env := e }

/-- What command i, run in state s, leaves in a buffer b: PUSH in Active stores at FILL. -/
def bufAfter (i : Instr) (s : State) (b : Memory) : Memory :=
  match i, s.phase with
  | .push p, .active => b.store s.fill.toNat p
  | _, _ => b

theorem bufAfter_push_active (p : Payload) (ha : s.phase = .active) :
    bufAfter (.push p) s b = b.store s.fill.toNat p := by simp [bufAfter, ha]

theorem bufAfter_push_idle (p : Payload) (hi : s.phase = .idle) :
    bufAfter (.push p) s b = b := by simp [bufAfter, hi]

theorem exec_buf (h : exec i s = .next t) : t.buf = bufAfter i s s.buf := by
  cases i with
  | start n => rcases execStart_cases h with ⟨_, rfl⟩ | ⟨_, _, rfl⟩ | ⟨_, _, rfl⟩ <;> rfl
  | push p =>
    rcases execPush_cases h with ⟨hi, rfl⟩ | ⟨ha, _, rfl⟩ | ⟨ha, _, rfl⟩
    · exact (bufAfter_push_idle p hi).symm
    · exact (bufAfter_push_active p ha).symm
    · exact (bufAfter_push_active p ha).symm
  | stop p => rcases execStop_cases h with ⟨_, rfl⟩ | ⟨_, _, rfl⟩ | ⟨_, _, rfl⟩ <;> rfl
  | enc p => cases execEnc_cases h; rfl
  | segrd p => rcases execSegrd_cases h with ⟨_, rfl⟩ | ⟨_, rfl⟩ <;> rfl

theorem execPush_completing (p : Payload) (ha : s.phase = .active)
    (hc : frameCompletes s = true) :
    execPush p s = .next (emitFrame (bufWrite s s.fill.toNat p)) := by
  rw [execPush_active ha, if_pos hc]

theorem execPush_advancing (p : Payload) (ha : s.phase = .active)
    (hc : frameCompletes s = false) :
    execPush p s =
      .next { s with buf := s.buf.store s.fill.toNat p, fill := s.fill + 1 } := by
  rw [execPush_active ha, if_neg (Bool.eq_false_iff.mp hc)]

theorem bufWrite_frameSize (s : State) (n : Nat) (p : Sample) :
    (bufWrite s n p).frameSize = s.frameSize := rfl

/-- With another buffer, another draw and other agents a command does the same to everything else,
if the frame that a completing PUSH reads is the same. -/
theorem exec_replaced (b : Memory) (d : Nat) (e : Env) (h : exec i s = .next t)
    (hframe : ∀ p, s.phase = .active → frameCompletes s = true →
      bufPrefix (bufWrite (replaced s b d e) s.fill.toNat p) s.frameSize.toNat =
        bufPrefix (bufWrite s s.fill.toNat p) s.frameSize.toNat) :
    exec i (replaced s b d e) = .next (replaced t (bufAfter i s b) d e) := by
  cases i with
  | start n =>
    rcases execStart_cases h with ⟨ha, rfl⟩ | ⟨hi, hn, rfl⟩ | ⟨hi, hn, rfl⟩
    · exact if_pos ha
    · exact (if_neg (by simp [replaced, hi])).trans (if_neg (by simp [hn]))
    · exact (if_neg (by simp [replaced, hi])).trans (if_pos hn)
  | push p =>
    rcases execPush_cases h with ⟨hi, rfl⟩ | ⟨ha, hc, rfl⟩ | ⟨ha, hc, rfl⟩
    · rw [bufAfter_push_idle p hi]
      simp [exec, execPush, replaced, hi]
    · rw [bufAfter_push_active p ha, emitFrame_eq, bufWrite_frameSize, ← hframe p ha hc]
      exact execPush_completing (s := replaced s b d e) p ha hc
    · rw [bufAfter_push_active p ha]
      exact execPush_advancing (s := replaced s b d e) p ha hc
  | stop p =>
    rcases execStop_cases h with ⟨hp, rfl⟩ | ⟨hp, hi, rfl⟩ | ⟨hp, ha, rfl⟩
    · exact if_pos hp
    · simp [exec, execStop, hp, hi, replaced, bufAfter]
    · simp [exec, execStop, hp, ha, replaced, bufAfter, State.setFill, State.setPhase]
  | enc p => cases execEnc_cases h; rfl
  | segrd p =>
    rcases execSegrd_cases h with ⟨hp, rfl⟩ | ⟨hp, rfl⟩
    · exact if_pos hp
    · exact if_neg (not_not_intro hp)

/-- Settles O45: the agents are no part of what a completing PUSH reads. -/
theorem blockIgnoresEnvironment : Obligations.BlockIgnoresEnvironment := by
  intro i s t e h
  obtain ⟨_, henv, hdraw⟩ := exec_keeps_surroundings h
  have hr := exec_replaced s.buf s.bufDraw e h fun _ _ _ => rfl
  rw [← exec_buf h] at hr
  exact ⟨henv, hr.trans (hdraw ▸ rfl)⟩

/-! ### Two buffers whose first FILL entries read alike -/

/-- Storing the sample that follows the first n appends it to them. -/
theorem bufPrefix_bufWrite (s : State) {n : Nat} (p : Sample) (hn : n < Config.frameMax) :
    bufPrefix (bufWrite s n p) (n + 1) = bufPrefix s n ++ [p] := by
  rw [bufPrefix_succ, bufRead_bufWrite_self s p hn,
    bufPrefix_congr fun j hj => bufRead_bufWrite_ne s p (Nat.ne_of_lt hj)]

/-- In an open session the partial frame reads alike from the state's own BUF and from buffer b
under draw d. -/
def PartialFrameAlike (s : State) (b : Memory) (d : Nat) : Prop :=
  s.phase = .active → bufPrefix (replaced s b d s.env) s.fill.toNat = bufPrefix s s.fill.toNat

theorem PartialFrameAlike.bufWrite (hal : PartialFrameAlike s b d) (hs : ActiveSession s)
    (ha : s.phase = .active) (p : Payload) :
    bufPrefix (bufWrite (replaced s b d e) s.fill.toNat p) (s.fill.toNat + 1) =
      bufPrefix (bufWrite s s.fill.toNat p) (s.fill.toNat + 1) := by
  obtain ⟨_, hmax, hlt⟩ := hs ha
  have hn : s.fill.toNat < Config.frameMax := Nat.lt_of_lt_of_le hlt hmax
  rw [bufPrefix_bufWrite _ p hn, bufPrefix_bufWrite _ p hn, ← hal ha]
  rfl

/-- In a session a command does the same from any buffer whose partial frame reads alike. -/
theorem exec_otherBuffer (hs : ActiveSession s) (hal : PartialFrameAlike s b d)
    (h : exec i s = .next t) :
    exec i (replaced s b d e) = .next (replaced t (bufAfter i s b) d e) :=
  exec_replaced b d e h fun p ha hc => frameCompletes_iff.mp hc ▸ hal.bufWrite hs ha p

/-- After the command the partial frames still read alike: a new session has none, and a PUSH
appends its sample to both. -/
theorem exec_keeps_alike (hs : ActiveSession s) (hal : PartialFrameAlike s b d)
    (h : exec i s = .next t) : PartialFrameAlike t (bufAfter i s b) d := by
  cases i with
  | start n =>
    rcases execStart_cases h with ⟨_, rfl⟩ | ⟨_, _, rfl⟩ | ⟨_, _, rfl⟩
    · exact hal
    · exact hal
    · exact fun _ => rfl
  | push p =>
    rcases execPush_cases h with ⟨hi, rfl⟩ | ⟨_, _, rfl⟩ | ⟨ha, _, rfl⟩
    · exact fun ha => nomatch hi.symm.trans ha
    · exact fun _ => rfl
    · intro _
      obtain ⟨_, _, hlt⟩ := hs ha
      rw [bufAfter_push_active p ha, toNat_succ_of_lt hlt]
      exact hal.bufWrite (e := s.env) hs ha p
  | stop p =>
    rcases execStop_cases h with ⟨_, rfl⟩ | ⟨_, _, rfl⟩ | ⟨_, _, rfl⟩
    · exact hal
    · exact hal
    · exact fun ha => nomatch ha
  | enc p => cases execEnc_cases h; exact hal
  | segrd p => rcases execSegrd_cases h with ⟨_, rfl⟩ | ⟨_, rfl⟩ <;> exact hal

/-- Settles O30: the samples below FILL are listed, so that they read the same under every draw. -/
theorem unwrittenEntriesNeverObserved : Obligations.UnwrittenEntriesNeverObserved := by
  intro i s t d ⟨_, hactive⟩ ⟨_, hw⟩ h
  have hal : PartialFrameAlike s s.buf d := fun _ => bufPrefix_congr fun j hj => by
    obtain ⟨v, hv⟩ := Option.isSome_iff_exists.mp (hw j hj)
    exact (bufRead_of_lookup (s := replaced s s.buf d s.env) hv).trans (bufRead_of_lookup hv).symm
  obtain ⟨_, henv, _⟩ := exec_keeps_surroundings h
  have hr := exec_otherBuffer (e := s.env) hactive hal h
  rw [← exec_buf h] at hr
  exact hr.trans (henv ▸ rfl)

/-- A run of commands from two buffers whose partial frames read alike ends in states that differ
in BUF, its draw and the agents alone. -/
theorem execAll_otherBuffer (is : List Instr) (hs : ActiveSession s)
    (hal : PartialFrameAlike s b d) (h : execAll is s = .next t) :
    ∃ b', execAll is (replaced s b d e) = .next (replaced t b' d e) := by
  induction is generalizing s b with
  | nil => cases h; exact ⟨b, rfl⟩
  | cons i is ih =>
    unfold execAll at h ⊢
    cases hx : exec i s with
    | next u =>
      rw [hx] at h
      rw [exec_otherBuffer hs hal hx]
      exact ih (exec_keeps_activeSession hs hx) (exec_keeps_alike hs hal hx) h
    | fault r => nomatch r
    | refused r => simp [hx] at h

/-- Settles O29: in Idle there is no partial frame, so any two buffers read alike. -/
theorem discardedSamplesNeverObserved : Obligations.DiscardedSamplesNeverObserved := by
  intro is s b d t hi h
  have hidle {P : Prop} (ha : s.phase = .active) : P := nomatch hi.symm.trans ha
  obtain ⟨b', hr⟩ := execAll_otherBuffer (b := b) (d := d) (e := s.env) is hidle hidle h
  exact ⟨_, hr, rfl, rfl, rfl, rfl⟩

end Sys2Proof.Proofs
end

section
/-! What each command leaves unchanged (spec/10_state.md R35). -/

namespace Sys2Proof.Proofs

open Sys2Proof.Machine

variable {s t : State}

/-- PUSH's row of the access matrix: of the registers it writes only FILL. -/
theorem execPush_keeps_registers {p : Payload} (h : execPush p s = .next t) :
    t.phase = s.phase ∧ t.frameSize = s.frameSize ∧ t.res = s.res ∧ t.err = s.err := by
  rcases execPush_cases h with ⟨_, rfl⟩ | ⟨_, _, rfl⟩ | ⟨_, _, rfl⟩ <;> exact ⟨rfl, rfl, rfl, rfl⟩

theorem execPush_idle_keeps {p : Payload} (hi : s.phase = .idle) (h : execPush p s = .next t) :
    t = s := by
  rcases execPush_cases h with ⟨_, rfl⟩ | ⟨ha, _⟩ | ⟨ha, _⟩
  · rfl
  · exact nomatch hi.symm.trans ha
  · exact nomatch hi.symm.trans ha

/-- PUSH stores at BUF[FILL] and nowhere else. -/
theorem execPush_keeps_bufRead {p : Payload} {j : Nat} (hj : s.phase = .active → j ≠ s.fill.toNat)
    (h : execPush p s = .next t) : bufRead t j = bufRead s j := by
  rcases execPush_cases h with ⟨_, rfl⟩ | ⟨ha, _, rfl⟩ | ⟨ha, _, rfl⟩
  · rfl
  · exact bufRead_bufWrite_ne s p (hj ha)
  · exact bufRead_bufWrite_ne s p (hj ha)

theorem execPush_keeps_frameOut {p : Payload} (hf : s.fill.toNat + 1 ≠ s.frameSize.toNat)
    (h : execPush p s = .next t) : t.frameOut = s.frameOut := by
  rcases execPush_cases h with ⟨_, rfl⟩ | ⟨_, hc, _⟩ | ⟨_, _, rfl⟩
  · rfl
  · exact absurd (frameCompletes_iff.mp hc) hf
  · rfl

/-- Settles O35: START, STOP, ENC and SEGRD do not write BUF, and PUSH's frame is that of its
three outcomes. -/
theorem commandFrames : Obligations.CommandFrames := by
  intro i s t h
  obtain ⟨hin, henv, hdraw⟩ := exec_keeps_surroundings h
  refine ⟨hin, henv, hdraw, ?_⟩
  cases i with
  | start n =>
    rcases execStart_cases h with ⟨_, rfl⟩ | ⟨_, _, rfl⟩ | ⟨_, _, rfl⟩ <;>
      exact ⟨rfl, fun _ => rfl⟩
  | push p =>
    obtain ⟨hphase, hsize, hres, herr⟩ := execPush_keeps_registers h
    exact ⟨hphase, hsize, hres, herr, fun hi => execPush_idle_keeps hi h,
      fun _ hj => execPush_keeps_bufRead hj h, fun hf => execPush_keeps_frameOut hf h⟩
  | stop p =>
    rcases execStop_cases h with ⟨_, rfl⟩ | ⟨_, _, rfl⟩ | ⟨_, _, rfl⟩ <;>
      exact ⟨rfl, fun _ => rfl⟩
  | enc p => cases execEnc_cases h; exact ⟨rfl, fun _ => rfl⟩
  | segrd p => rcases execSegrd_cases h with ⟨_, rfl⟩ | ⟨_, rfl⟩ <;> exact ⟨rfl, fun _ => rfl⟩

end Sys2Proof.Proofs
end

section
/-! STATUS and ERR: the fields of STATUS (spec/10_state.md R29), and which steps write ERR (R27). -/

namespace Sys2Proof.Proofs

open Sys2Proof.Machine

variable {s t : State}

/-! ### The fields of STATUS -/

/-- STATUS bit by bit. -/
theorem status_getLsbD (s : State) (k : Nat) :
    (status s).getLsbD k =
      if k < 1 then (phaseBit s.phase).getLsbD k
      else if k < 8 then false
      else if k < 16 then s.err.getLsbD (k - 8)
      else s.fill.getLsbD (k - 16) := by
  refine (BitVec.getLsbD_append (x := s.fill ++ s.err ++ (0 : BitVec 7))).trans ?_
  simp only [BitVec.getLsbD_append]
  by_cases h1 : k < 1
  · simp [h1]
  · by_cases h8 : k < 8
    · simp [h1, h8, show k - 1 < 7 by omega]
    · simp [h1, h8, show ¬ k - 1 < 7 by omega, Nat.sub_sub,
        show k - 8 < 8 ↔ k < 16 by omega]

theorem status_phase (s : State) : (status s).getLsbD 0 = true ↔ s.phase = .active := by
  rw [status_getLsbD]
  cases s.phase <;> simp [phaseBit]

theorem status_reserved (s : State) : (status s).extractLsb' 1 7 = 0 := by
  apply BitVec.eq_of_getLsbD_eq
  intro k hk
  simp [status_getLsbD, hk, show 1 + k < 8 by omega]

theorem status_err (s : State) : (status s).extractLsb' 8 8 = s.err := by
  apply BitVec.eq_of_getLsbD_eq
  intro k hk
  simp [status_getLsbD, hk, show 8 + k < 16 by omega]

theorem status_fill (s : State) : (status s).extractLsb' 16 16 = s.fill := by
  apply BitVec.eq_of_getLsbD_eq
  intro k hk
  simp [status_getLsbD, hk, show ¬ 16 + k < 8 by omega]

/-- Settles O44: each field of STATUS, and 0 at reset. -/
theorem statusFields : Obligations.StatusFields :=
  ⟨fun s => ⟨status_phase s, status_reserved s, status_err s, status_fill s⟩, by decide⟩

/-! ### The check order of R133 on decoded words -/

theorem opField_toNat (c : CmdWord) : (opField c).toNat = c.toNat / 65536 := by
  have hc := c.isLt
  rw [opField, BitVec.extractLsb'_toNat, Nat.shiftRight_eq_div_pow]
  exact Nat.mod_eq_of_lt (by omega)

theorem payloadField_toNat (c : CmdWord) : (payloadField c).toNat = c.toNat % 65536 := by
  rw [payloadField, BitVec.extractLsb'_toNat, Nat.shiftRight_zero]

theorem segrdReserved_eq_zero_iff (p : Payload) : segrdReserved p = 0 ↔ p.toNat < 128 := by
  have hp := p.isLt
  rw [← BitVec.toNat_inj, segrdReserved, BitVec.extractLsb'_toNat, Nat.shiftRight_eq_div_pow]
  simp only [BitVec.ofNat_eq_ofNat, BitVec.toNat_ofNat]
  omega

theorem frameSizeLegal_eq_false_iff (n : Payload) :
    frameSizeLegal n = false ↔ n.toNat = 0 ∨ Config.frameMax < n.toNat := by
  rw [← Bool.not_eq_true, frameSizeLegal_iff]
  omega

/-- The fault that a command raises when it runs in a phase (R66, R131). -/
def commandFault (i : Instr) (phase : Phase) : Option CommandFault :=
  match i with
  | .start n =>
    if phase = .active then some .startActive
    else if frameSizeLegal n then none else some .badFrameSize
  | .stop p => if p = 0 then none else some .reservedPayload
  | .segrd p => if segrdReserved p = 0 then none else some .reservedPayload
  | .push _ => none
  | .enc _ => none

/-- The fault of what a word decodes to. -/
def decodedFault (w : Decoded) (phase : Phase) : Option CommandFault :=
  match w with
  | .illegal f => some f
  | .command i => commandFault i phase

/-- The order of R133, which reads a word's fields as numbers, is that of decoding and execution. -/
theorem faultOf_eq (c : CmdWord) (phase : Phase) :
    faultOf c phase = decodedFault (decode c) phase := by
  unfold faultOf decode
  rw [← opField_toNat, ← payloadField_toNat]
  generalize payloadField c = p
  generalize opField c = op
  by_cases hstart : op = 0x1#4
  · subst hstart
    cases hn : frameSizeLegal p
    · simp [decodedFault, commandFault, hn, (frameSizeLegal_eq_false_iff p).mp hn]
    · have hlegal : ¬ (p.toNat = 0 ∨ Config.frameMax < p.toNat) := fun hbad => by
        simp [(frameSizeLegal_eq_false_iff p).mpr hbad] at hn
      simp [decodedFault, commandFault, hn, hlegal]
  by_cases hpush : op = 0x2#4
  · subst hpush; simp [decodedFault, commandFault]
  by_cases hstop : op = 0x3#4
  · subst hstop
    by_cases hp : p = 0#16
    · simp [decodedFault, commandFault, hp]
    · have hne : p.toNat ≠ 0 := fun h0 => hp (BitVec.eq_of_toNat_eq h0)
      simp [decodedFault, hp, hne]
  by_cases henc : op = 0x4#4
  · subst henc; simp [decodedFault, commandFault]
  by_cases hsegrd : op = 0x5#4
  · subst hsegrd
    have hiff := segrdReserved_eq_zero_iff p
    by_cases hp : p.toNat < 128
    · simp [decodedFault, commandFault, hiff.mpr hp, hp]
    · have hne : ¬ segrdReserved p = 0#9 := fun h0 => hp (hiff.mp h0)
      simp [decodedFault, hne, Nat.le_of_not_lt hp]
  · have hother : op.toNat = 0 ∨ 6 ≤ op.toNat := by bv_omega
    simp [decodedFault, hother, hstart, hpush, hstop, henc, hsegrd]

/-! ### Which steps write ERR -/

/-- ERR after a word or command with this fault, if any (R132). -/
def errAfter (err : Byte) (f : Option CommandFault) : Byte := f.elim err (recordFault err)

theorem errAfter_none (err : Byte) : errAfter err none = err := rfl

theorem errAfter_zero_some (f : CommandFault) : errAfter 0 (some f) = faultCode f :=
  recordFault_zero f

theorem errAfter_of_ne {err : Byte} (h : err ≠ 0) (f : Option CommandFault) :
    errAfter err f = err := by
  cases f with
  | none => rfl
  | some f => exact recordFault_of_ne f h

theorem exec_err {i : Instr} (h : exec i s = .next t) :
    t.err = errAfter s.err (commandFault i s.phase) := by
  cases i with
  | start n =>
    rcases execStart_cases h with ⟨ha, rfl⟩ | ⟨hi, hn, rfl⟩ | ⟨hi, hn, rfl⟩
    · simp [commandFault, ha, errAfter, raiseFault]
    · simp [commandFault, hi, hn, errAfter, raiseFault]
    · simp [commandFault, hi, hn, errAfter]
  | push p =>
    obtain ⟨_, _, _, herr⟩ := execPush_keeps_registers h
    exact herr
  | stop p =>
    rcases execStop_cases h with ⟨hp, rfl⟩ | ⟨hp, _, rfl⟩ | ⟨hp, _, rfl⟩
    · rw [commandFault, if_neg hp]; rfl
    · rw [commandFault, if_pos hp]; rfl
    · rw [commandFault, if_pos hp]; rfl
  | enc p => cases execEnc_cases h; rfl
  | segrd p =>
    rcases execSegrd_cases h with ⟨hp, rfl⟩ | ⟨hp, rfl⟩
    · rw [commandFault, if_neg hp]; rfl
    · rw [commandFault, if_pos hp]; rfl

theorem runWord_err {c : CmdWord} (h : runWord c s = .next t) :
    t.err = errAfter s.err (faultOf c s.phase) := by
  rw [faultOf_eq]
  rcases runWord_cases h with ⟨i, hd, hx⟩ | ⟨f, hd, rfl⟩
  · rw [hd]; exact exec_err hx
  · rw [hd]; rfl

/-- A reset presents no word to the block (R136). -/
theorem presented_of_reset (h : presentsReset s = true) : presented s = none := by
  unfold presentsReset at h
  unfold presented
  split at h
  · rename_i hi; rw [hi]
  all_goals exact nomatch h

/-- A step without reset writes ERR as the presented word's fault says, if there is one. -/
theorem step_err (hr : presentsReset s = false) (h : step s = .next t) :
    t.err = errAfter s.err ((presented s).bind fun c => faultOf c s.phase) := by
  have hphase : (accepting s).phase = s.phase := by rw [accepting_eq]
  have herr : (accepting s).err = s.err := by rw [accepting_eq]
  rcases step_cases h with ⟨c, u, hc, hrun, rfl⟩ | ⟨hr', _⟩ | ⟨e, rest, hi, rfl⟩ | ⟨hn, _, _, rfl⟩
  · rw [hc, Option.bind_some, ← hphase, ← herr]
    show u.err = _
    exact runWord_err hrun
  · exact nomatch hr.symm.trans hr'
  · simp [presented, hi, errAfter_none]
  · simp [hn, errAfter_none, herr]

theorem step_err_reset (hr : presentsReset s = true) (h : step s = .next t) : t.err = 0 := by
  rcases step_cases h with ⟨c, _, hc, _, _⟩ | ⟨_, rfl⟩ | ⟨e, rest, hi, _⟩ | ⟨_, hr', _, _⟩
  · exact nomatch hc.symm.trans (presented_of_reset hr)
  · rfl
  · simp [presentsReset, hi] at hr
  · exact nomatch hr.symm.trans hr'

/-- Settles O32: a step without reset takes ERR to `errAfter` of the presented word's fault, which
keeps a nonzero code. -/
theorem firstFaultSticks : Obligations.FirstFaultSticks := by
  refine ⟨rfl, status_err, fun s t h => ⟨fun hr => step_err_reset hr h, ?_, ?_, ?_⟩⟩
  · intro c f hc hf h0
    have hr : presentsReset s = false := Bool.eq_false_iff.mpr fun hr =>
      nomatch hc.symm.trans (presented_of_reset hr)
    rw [step_err hr h, hc, Option.bind_some, hf, h0, errAfter_zero_some]
  · intro hr hne
    rw [step_err hr h, errAfter_of_ne hne]
  · intro hr h0 hne
    rw [step_err hr h, h0] at hne ⊢
    cases hf : (presented s).bind fun c => faultOf c s.phase with
    | none => exact absurd (by rw [hf, errAfter_none]) hne
    | some f =>
      obtain ⟨c, hc, hcf⟩ := Option.bind_eq_some_iff.mp hf
      exact ⟨c, f, hc, hcf, errAfter_zero_some f⟩

end Sys2Proof.Proofs
end

section
/-! Commands on the interfaces (spec/20_memory.md): repeating a command (R45), and the step that
runs the word on CMD_IN (R48). -/

namespace Sys2Proof.Proofs

open Sys2Proof.Machine

variable {s t : State}

/-! ### Repeating a command -/

theorem recordFault_ne_zero (err : Byte) (f : CommandFault) : recordFault err f ≠ 0x00 := by
  by_cases h0 : err = 0x00
  · rw [h0, recordFault_zero]; exact faultCode_ne_zero f
  · rw [recordFault_of_ne f h0]; exact h0

/-- A fault raised again changes nothing: ERR keeps the first code (R27, R132). -/
theorem raiseFault_raiseFault (f : CommandFault) (s : State) :
    raiseFault f (raiseFault f s) = raiseFault f s := by
  have herr : recordFault (recordFault s.err f) f = recordFault s.err f :=
    recordFault_of_ne f (recordFault_ne_zero s.err f)
  simp only [raiseFault_eq, herr]

theorem execEnc_repeat {p : Payload} (h : execEnc p s = .next t) : execEnc p t = .next t := by
  cases execEnc_cases h
  rfl

theorem execSegrd_repeat {p : Payload} (h : execSegrd p s = .next t) :
    execSegrd p t = .next t := by
  rcases execSegrd_cases h with ⟨hp, rfl⟩ | ⟨hp, rfl⟩
  · rw [execSegrd, if_pos hp, raiseFault_raiseFault]
  · rw [execSegrd, if_neg (not_not_intro hp)]
    rfl

theorem execStop_idle (hi : s.phase = .idle) : execStop 0 s = .next s := by
  simp [execStop, hi]

/-- STOP leaves the block Idle, where STOP has no effect; a faulting STOP faults again. -/
theorem execStop_repeat {p : Payload} (h : execStop p s = .next t) : execStop p t = .next t := by
  rcases execStop_cases h with ⟨hp, rfl⟩ | ⟨rfl, hi, rfl⟩ | ⟨rfl, _, rfl⟩
  · rw [execStop, if_pos hp, raiseFault_raiseFault]
  · exact execStop_idle hi
  · exact execStop_idle rfl

/-- Settles O17: ENC and SEGRD rewrite RES with the same value, STOP finds the block Idle, and a
fault recorded again is the one that stands in ERR. -/
theorem repeatedCommandsIdempotent : Obligations.RepeatedCommandsIdempotent :=
  fun _ _ _ => ⟨execEnc_repeat, execSegrd_repeat, execStop_repeat⟩

/-! ### The step that runs the word on CMD_IN -/

theorem runWord_command {c : CmdWord} {i : Instr} (hd : decode c = .command i) :
    runWord c s = exec i s := by
  simp only [runWord, hd]

theorem runWord_illegal {c : CmdWord} {f : CommandFault} (hd : decode c = .illegal f) :
    runWord c s = .next (raiseFault f s) := by
  simp only [runWord, hd]

/-- A word on CMD_IN runs on the state with the word off the schedule, and the consumer takes what
it emits (R48, R150). -/
theorem step_command {c : CmdWord} {rest : List Input} (hi : s.inputs = .command c :: rest) :
    step s = handOff (runWord c { s with inputs := rest }) := by
  simp only [step, nextStep, hi]
  rfl

/-- With FRAME_OUT empty the consumer takes nothing. -/
theorem consumeFrames_of_nil (hf : s.frameOut = []) : consumeFrames s = s := by
  rw [consumeFrames_eq, hf, List.foldl_nil, ← hf]

/-- Settles O42: `step_command` with what the word decodes to, a command (`runWord_command`) or an
illegal word (`runWord_illegal`), whose fault emits nothing. -/
theorem stepRunsDecodedCommand : Obligations.StepRunsDecodedCommand := by
  intro s c rest hi
  constructor
  · intro i t hd hx
    rw [step_command hi, runWord_command hd, hx, handOff, consumeFrames_eq]
  · intro f hd hf
    have hout : (raiseFault f { s with inputs := rest }).frameOut = [] := hf
    rw [step_command hi, runWord_illegal hd, handOff, consumeFrames_of_nil hout, raiseFault_eq]

end Sys2Proof.Proofs
end

section
/-! Command words (spec/30_encoding.md R63 to R71): a word is its two fields, the decoder inverts
the encoder on the well-formed commands, and agrees with the opcode table. -/

namespace Sys2Proof.Proofs

open Sys2Proof.Machine

/-! ### A word and its fields -/

/-- A word is OP over PAYLOAD, with no bit left over (R63). -/
theorem opField_append_payloadField (c : CmdWord) : (opField c ++ payloadField c : CmdWord) = c :=
  BitVec.extractLsb'_append_extractLsb' (w := 4) (len := 16)

theorem append_eq_iff_fields (op : BitVec 4) (p : Payload) (c : CmdWord) :
    (op ++ p : CmdWord) = c ↔ opField c = op ∧ payloadField c = p := by
  constructor
  · rintro rfl
    exact Laws.EncodedFields.fields_of_append op p
  · rintro ⟨rfl, rfl⟩
    exact opField_append_payloadField c

theorem encode_eq_iff (i : Instr) (c : CmdWord) :
    encode i = c ↔ opField c = i.opcode ∧ payloadField c = i.payload :=
  append_eq_iff_fields i.opcode i.payload c

/-! ### The decoder inverts the encoder -/

/-- A command's word decodes to it when the reserved payload bits are 0 (R66). -/
theorem decode_encode {i : Instr} (hwf : i.wellFormed = true) : decode (encode i) = .command i := by
  obtain ⟨hop, hp⟩ := (encode_eq_iff i _).mp rfl
  unfold decode
  rw [hop, hp]
  cases i with
  | start n => rfl
  | push s => rfl
  | stop payload => simp_all [Instr.wellFormed, Instr.opcode, Instr.payload]
  | enc s => rfl
  | segrd payload => simp_all [Instr.wellFormed, Instr.opcode, Instr.payload, segrdReserved]

/-- What a word that decodes to a command is made of. -/
theorem decode_command {c : CmdWord} {i : Instr} (h : decode c = .command i) :
    i.wellFormed = true ∧ opField c = i.opcode ∧ payloadField c = i.payload := by
  simp only [decode] at h
  split_ifs at h with hstart hpush hstop hzero henc hsegrd hreserved <;> cases h
  · exact ⟨rfl, hstart, rfl⟩
  · exact ⟨rfl, hpush, rfl⟩
  · exact ⟨beq_iff_eq.mpr hzero, hstop, rfl⟩
  · exact ⟨rfl, henc, rfl⟩
  · exact ⟨beq_iff_eq.mpr hreserved, hsegrd, rfl⟩

/-- Settles O1: `decode_command` from the word to the command, `decode_encode` back. -/
theorem decodeEncodeAgree : Obligations.DecodeEncodeAgree := by
  intro c i
  constructor
  · intro hd
    obtain ⟨hwf, hfields⟩ := decode_command hd
    exact ⟨hwf, (encode_eq_iff i c).mpr hfields⟩
  · rintro ⟨hwf, rfl⟩
    exact decode_encode hwf

/-! ### The opcode table -/

/-- A row covers a word when it does so field by field. -/
theorem covers_iff (r : OpcodeRow) (c : CmdWord) :
    r.covers c = true ↔
      opField c &&& opField r.mask = opField r.pattern ∧
      payloadField c &&& payloadField r.mask = payloadField r.pattern := by
  have hand : c &&& r.mask =
      (opField c &&& opField r.mask) ++ (payloadField c &&& payloadField r.mask) := by
    rw [← BitVec.and_append, opField_append_payloadField, opField_append_payloadField]
  rw [OpcodeRow.covers, beq_iff_eq, hand, append_eq_iff_fields, eq_comm, eq_comm (a := payloadField _)]

/-- The row for an opcode whose payload must be 0 in the bits of a mask (R65, R67). -/
def fieldRow (mnemonic : String) (op : BitVec 4) (reserved : Payload) : OpcodeRow :=
  ⟨mnemonic, op ++ 0#16, 0xF#4 ++ reserved⟩

theorem fieldRow_covers_iff (mnemonic : String) (op : BitVec 4) (reserved : Payload) (c : CmdWord) :
    (fieldRow mnemonic op reserved).covers c = true ↔
      opField c = op ∧ payloadField c &&& reserved = 0 := by
  obtain ⟨hmop, hmp⟩ := Laws.EncodedFields.fields_of_append 0xF#4 reserved
  obtain ⟨hop, hp⟩ := Laws.EncodedFields.fields_of_append op 0#16
  have hones : opField c &&& 0xF#4 = opField c := BitVec.and_allOnes
  rw [covers_iff, fieldRow, hmop, hmp, hop, hp, hones]
  rfl

/-- The payload bits that a command reserves (R65). -/
def reservedMask : Instr → Payload
  | .start _ => 0
  | .push _ => 0
  | .stop _ => 0xFFFF
  | .enc _ => 0
  | .segrd _ => 0xFF80

theorem and_segrdMask_eq_zero_iff (p : Payload) : p &&& 0xFF80 = 0 ↔ segrdReserved p = 0 := by
  have hsplit : segrdReserved p ++ tableIndex p = p :=
    BitVec.extractLsb'_append_extractLsb' (w := 9) (len := 7)
  have hand : p &&& 0xFF80 = segrdReserved p ++ 0#7 := calc
    p &&& 0xFF80 = (segrdReserved p ++ tableIndex p) &&& (BitVec.allOnes 9 ++ 0#7) := by
      rw [hsplit]; rfl
    _ = segrdReserved p ++ 0#7 := by rw [BitVec.and_append, BitVec.and_allOnes, BitVec.and_zero]
  rw [hand]
  exact BitVec.append_left_inj (s₂ := 0#9) 0#7

/-- A command is well formed when its reserved payload bits are 0 (R66). -/
theorem wellFormed_iff (i : Instr) : i.wellFormed = true ↔ i.payload &&& reservedMask i = 0 := by
  cases i with
  | start n => exact iff_of_true rfl BitVec.and_zero
  | push s => exact iff_of_true rfl BitVec.and_zero
  | stop payload =>
    have hones : payload &&& 0xFFFF = payload := BitVec.and_allOnes
    simp only [Instr.wellFormed, Instr.payload, reservedMask, hones, beq_iff_eq]
  | enc s => exact iff_of_true rfl BitVec.and_zero
  | segrd payload => exact beq_iff_eq.trans (and_segrdMask_eq_zero_iff payload).symm

/-- A command's own row of the opcode table (R64, R67). -/
def ownRow (i : Instr) : OpcodeRow := fieldRow i.mnemonic i.opcode (reservedMask i)

theorem opcodeTable_eq_fieldRows :
    opcodeTable = [fieldRow "START" 0x1 0, fieldRow "PUSH" 0x2 0, fieldRow "STOP" 0x3 0xFFFF,
      fieldRow "ENC" 0x4 0, fieldRow "SEGRD" 0x5 0xFF80] := by decide

theorem opcodeTable_eq (p : Payload) :
    opcodeTable = [Instr.start p, .push p, .stop p, .enc p, .segrd p].map ownRow :=
  opcodeTable_eq_fieldRows

theorem ownRow_mem (i : Instr) : ownRow i ∈ opcodeTable := by
  rw [opcodeTable_eq i.payload]
  apply List.mem_map_of_mem
  cases i <;> simp [Instr.payload]

/-- Every row is the own row of a command, with any payload. -/
theorem exists_ownRow (p : Payload) {r : OpcodeRow} (h : r ∈ opcodeTable) :
    ∃ i : Instr, i.payload = p ∧ ownRow i = r := by
  rw [opcodeTable_eq p] at h
  obtain ⟨i, hi, hr⟩ := List.mem_map.mp h
  refine ⟨i, ?_, hr⟩
  simp only [List.mem_cons, List.not_mem_nil, or_false] at hi
  rcases hi with rfl | rfl | rfl | rfl | rfl <;> rfl

/-- A row covers exactly the words of the commands whose own row it is. -/
theorem covers_iff_decode {r : OpcodeRow} (hr : r ∈ opcodeTable) (c : CmdWord) :
    r.covers c = true ↔ ∃ i, decode c = .command i ∧ ownRow i = r := by
  constructor
  · intro hcov
    obtain ⟨i, hpay, rfl⟩ := exists_ownRow (payloadField c) hr
    obtain ⟨hop, hzero⟩ := (fieldRow_covers_iff _ _ _ c).mp hcov
    rw [← hpay] at hzero
    have hword : encode i = c := (encode_eq_iff i c).mpr ⟨hop, hpay.symm⟩
    exact ⟨i, hword ▸ decode_encode ((wellFormed_iff i).mpr hzero), rfl⟩
  · rintro ⟨i, hd, rfl⟩
    obtain ⟨hwf, hop, hp⟩ := decode_command hd
    exact (fieldRow_covers_iff _ _ _ c).mpr ⟨hop, hp ▸ (wellFormed_iff i).mp hwf⟩

/-- Settles O2: by `covers_iff_decode` the rows covering a word are the own rows of the command it
decodes to, and a word decodes to one command at most. -/
theorem decodeMatchesOpcodeTable : Obligations.DecodeMatchesOpcodeTable := by
  intro c
  constructor
  · intro i hd
    refine ⟨ownRow i, ownRow_mem i, (covers_iff_decode (ownRow_mem i) c).mpr ⟨i, hd, rfl⟩, rfl, ?_⟩
    intro r hr hcov
    obtain ⟨j, hj, rfl⟩ := (covers_iff_decode hr c).mp hcov
    cases hd.symm.trans hj
    rfl
  · constructor
    · rintro ⟨f, hf⟩ r hr
      rw [← Bool.not_eq_true, covers_iff_decode hr]
      rintro ⟨i, hi, -⟩
      cases hf.symm.trans hi
    · intro hnone
      cases hd : decode c with
      | command i =>
        have hcov := (covers_iff_decode (ownRow_mem i) c).mpr ⟨i, hd, rfl⟩
        exact absurd hcov (Bool.eq_false_iff.mp (hnone _ (ownRow_mem i)))
      | illegal f => exact ⟨f, rfl⟩

/-! ### Illegal words -/

/-- A command that a word decodes to raises no fault of decoding when it runs (R66). -/
theorem commandFault_of_decode {c : CmdWord} {i : Instr} (h : decode c = .command i) (phase : Phase) :
    commandFault i phase ≠ some .reservedOpcode ∧ commandFault i phase ≠ some .reservedPayload := by
  obtain ⟨hwf, -, -⟩ := decode_command h
  cases i with
  | start n => unfold commandFault; split_ifs <;> simp
  | push s => simp [commandFault]
  | stop payload => simp_all [commandFault, Instr.wellFormed]
  | enc s => simp [commandFault]
  | segrd payload => simp_all [commandFault, Instr.wellFormed, segrdReserved]

/-- Decoding raises no execution-time fault (R67). -/
theorem fault_of_decode {c : CmdWord} {f : CommandFault} (h : decode c = .illegal f) :
    f = .reservedOpcode ∨ f = .reservedPayload := by
  simp only [decode] at h
  split_ifs at h <;> cases h
  · exact .inr rfl
  · exact .inr rfl
  · exact .inl rfl

/-- The faults of decoding are those that R133's order finds before any phase is looked at. -/
theorem decode_illegal_iff {f : CommandFault} (hf : f = .reservedOpcode ∨ f = .reservedPayload)
    (c : CmdWord) (phase : Phase) : decode c = .illegal f ↔ faultOf c phase = some f := by
  rw [faultOf_eq]
  cases hd : decode c with
  | illegal g => simp [decodedFault]
  | command i =>
    obtain ⟨hop, hpay⟩ := commandFault_of_decode hd phase
    rcases hf with rfl | rfl
    · simpa [decodedFault] using hop
    · simpa [decodedFault] using hpay

theorem faultOf_eq_reservedOpcode_iff (c : CmdWord) (phase : Phase) :
    faultOf c phase = some .reservedOpcode ↔ c.toNat / 65536 = 0 ∨ 6 ≤ c.toNat / 65536 := by
  simp only [faultOf]
  by_cases hop : c.toNat / 65536 = 0 ∨ 6 ≤ c.toNat / 65536
  · exact iff_of_true (if_pos hop) hop
  · rw [if_neg hop]
    refine iff_of_false ?_ hop
    split_ifs <;> nofun

theorem faultOf_eq_reservedPayload_iff (c : CmdWord) (phase : Phase) :
    faultOf c phase = some .reservedPayload ↔
      (c.toNat / 65536 = 3 ∧ c.toNat % 65536 ≠ 0) ∨
      (c.toNat / 65536 = 5 ∧ 128 ≤ c.toNat % 65536) := by
  simp only [faultOf]
  split_ifs with hop hpay
  · exact iff_of_false nofun (by omega)
  · exact iff_of_true rfl hpay
  all_goals exact iff_of_false nofun hpay

/-- Settles O3: the first two clauses read R133's order, in any phase (`decode_illegal_iff`), and
no other fault is one of decoding (`fault_of_decode`). -/
theorem illegalWordFaults : Obligations.IllegalWordFaults := by
  intro c
  refine ⟨?_, ?_, fun hd => ?_, fun hd => ?_⟩
  · rw [decode_illegal_iff (.inl rfl) c .idle, faultOf_eq_reservedOpcode_iff]
  · rw [decode_illegal_iff (.inr rfl) c .idle, faultOf_eq_reservedPayload_iff]
  · exact absurd (fault_of_decode hd) (by decide)
  · exact absurd (fault_of_decode hd) (by decide)

/-- Settles O4: the decoder on each example word of R71, and the two fault codes. -/
theorem exampleWordsDecode : Obligations.ExampleWordsDecode := by
  unfold Obligations.ExampleWordsDecode
  decide

end Sys2Proof.Proofs
end

section
/-! The assembler (spec/30_encoding.md R69, R70): which operands it accepts, and what it then
presents. -/

namespace Sys2Proof.Proofs

open Sys2Proof.Machine

theorem asmNumber_eq_some_iff (max n : Int) (p : Payload) :
    asmNumber max n = some p ↔ 0 ≤ n ∧ n ≤ max ∧ BitVec.ofInt 16 n = p := by
  rw [asmNumber, Option.ite_none_right_eq_some, Option.some.injEq, and_assoc]

theorem asmSample_eq_some_iff (s : Int) (p : Sample) :
    asmSample s = some p ↔ -32768 ≤ s ∧ s ≤ 32767 ∧ BitVec.ofInt 16 s = p := by
  rw [asmSample, Option.ite_none_right_eq_some, Option.some.injEq, and_assoc]

theorem asmSamples_cons_eq_some_iff (s : Int) (ss : List Int) (ws : List Sample) :
    asmSamples (s :: ss) = some ws ↔
      ∃ w vs, asmSample s = some w ∧ asmSamples ss = some vs ∧ w :: vs = ws := by
  rw [asmSamples]
  cases asmSample s with
  | none => simp
  | some w => cases asmSamples ss <;> simp

/-- A PUSHB line's samples are accepted when each of them is. -/
theorem asmSamples_eq_some_iff (ss : List Int) (ws : List Sample) :
    asmSamples ss = some ws ↔
      (∀ s ∈ ss, -32768 ≤ s ∧ s ≤ 32767) ∧ ss.map (BitVec.ofInt 16) = ws := by
  induction ss generalizing ws with
  | nil => simp [asmSamples]
  | cons s ss ih =>
    rw [asmSamples_cons_eq_some_iff, List.forall_mem_cons]
    constructor
    · rintro ⟨w, vs, hw, hvs, rfl⟩
      obtain ⟨hlo, hhi, rfl⟩ := (asmSample_eq_some_iff s w).mp hw
      obtain ⟨hss, rfl⟩ := (ih vs).mp hvs
      exact ⟨⟨⟨hlo, hhi⟩, hss⟩, rfl⟩
    · rintro ⟨⟨⟨hlo, hhi⟩, hss⟩, rfl⟩
      exact ⟨_, _, (asmSample_eq_some_iff s _).mpr ⟨hlo, hhi, rfl⟩, (ih _).mpr ⟨hss, rfl⟩, rfl⟩

/-- A line of one command with a numeric operand: accepted in the operand's range, as that
command. -/
theorem map_present_eq_some_iff {o : Option Payload} {lo hi n : Int} (f : Payload → Instr)
    (ho : ∀ p, o = some p ↔ lo ≤ n ∧ n ≤ hi ∧ BitVec.ofInt 16 n = p) (x : List Input) :
    (o.map fun p => [present (f p)]) = some x ↔
      lo ≤ n ∧ n ≤ hi ∧ x = [.command (encode (f (BitVec.ofInt 16 n)))] := by
  rw [Option.map_eq_some_iff]
  constructor
  · rintro ⟨p, hp, rfl⟩
    obtain ⟨hlo, hhi, rfl⟩ := (ho p).mp hp
    exact ⟨hlo, hhi, rfl⟩
  · rintro ⟨hlo, hhi, rfl⟩
    exact ⟨_, (ho _).mpr ⟨hlo, hhi, rfl⟩, rfl⟩

theorem assemble_pushb_eq_some_iff (ss : List Int) (x : List Input) :
    assemble (.pushb ss) = some x ↔
      (∀ s ∈ ss, -32768 ≤ s ∧ s ≤ 32767) ∧
        x = ss.map (fun s => Input.command (encode (.push (BitVec.ofInt 16 s)))) := by
  have hpush : (pushb (ss.map (BitVec.ofInt 16))).map present =
      ss.map (fun s => Input.command (encode (.push (BitVec.ofInt 16 s)))) := by
    rw [pushb, List.map_map, List.map_map]; rfl
  rw [assemble, Option.map_eq_some_iff, ← hpush]
  constructor
  · rintro ⟨ws, hws, rfl⟩
    obtain ⟨hrange, rfl⟩ := (asmSamples_eq_some_iff ss ws).mp hws
    exact ⟨hrange, rfl⟩
  · rintro ⟨hrange, rfl⟩
    exact ⟨_, (asmSamples_eq_some_iff ss _).mpr ⟨hrange, rfl⟩, rfl⟩

/-- Settles O5: a numeric operand's line by the operand's range (`map_present_eq_some_iff`), PUSHB
by its samples' (`assemble_pushb_eq_some_iff`); the other lines have nothing to refuse. -/
theorem assemblerRanges : Obligations.AssemblerRanges :=
  ⟨fun n => map_present_eq_some_iff .start (asmNumber_eq_some_iff 65535 n),
    fun s => map_present_eq_some_iff .push (asmSample_eq_some_iff s),
    fun s => map_present_eq_some_iff .enc (asmSample_eq_some_iff s),
    fun i => map_present_eq_some_iff .segrd (asmNumber_eq_some_iff 127 i),
    assemble_pushb_eq_some_iff,
    fun _ => ⟨rfl, rfl⟩, rfl, fun _ => rfl, rfl⟩

end Sys2Proof.Proofs
end

section
/-! The A-Law encoder's companded value, segment by segment (spec/40_companding.md R84, R92), and
its codewords (spec/30_encoding.md R61). -/

namespace Sys2Proof.Proofs

open Sys2Proof.Machine

/-! ### The companded value of a magnitude -/

/-- Below 256 the companded value is the magnitude's bits from 4 up. -/
theorem compandWith_low (lut : BitVec 7 → BitVec 3) {mag : Nat} (h : mag < 256) :
    compandWith lut mag = mag / 16 := by
  rw [compandWith, if_neg (Nat.not_le.mpr h), Nat.shiftRight_eq_div_pow]

/-- Entry i of the table is the number of bits of i (R80). -/
theorem readSeglut_bracket : ∀ i : BitVec 7, i ≠ 0 →
    1 ≤ (readSeglut i).toNat ∧ 2 ^ (readSeglut i).toNat ≤ 2 * i.toNat ∧
      i.toNat < 2 ^ (readSeglut i).toNat := by
  decide

theorem magIndex_toNat {mag : Nat} (h : mag < 32768) : (magIndex mag).toNat = mag / 256 := by
  have hmask : (mag >>> 8) &&& 0x7F = mag / 256 % 128 := by
    rw [Nat.shiftRight_eq_div_pow]
    exact Nat.and_two_pow_sub_one_eq_mod _ 7
  rw [magIndex, BitVec.toNat_ofNat, hmask]
  omega

theorem magIndex_ne_zero {mag : Nat} (hlo : 256 ≤ mag) (hhi : mag < 32768) : magIndex mag ≠ 0 := by
  rw [← BitVec.toNat_inj.ne, magIndex_toNat hhi]
  exact Nat.ne_of_gt (Nat.div_pos hlo (by decide))

/-- Segment e of the magnitudes, e in 1 .. 7: the leading one is bit e + 7 (R80, R92). -/
structure InSegment (mag e : Nat) : Prop where
  one_le : 1 ≤ e
  le_seven : e ≤ 7
  lower : 2 ^ (e + 7) ≤ mag
  upper : mag < 2 ^ (e + 8)

/-- The exponent that the table gives a magnitude is its segment's (R80). -/
theorem inSegment_readSeglut {mag : Nat} (hlo : 256 ≤ mag) (hhi : mag < 32768) :
    InSegment mag (readSeglut (magIndex mag)).toNat := by
  obtain ⟨hpos, hge, hlt⟩ := readSeglut_bracket _ (magIndex_ne_zero hlo hhi)
  have he := (readSeglut (magIndex mag)).isLt
  rw [magIndex_toNat hhi] at hge hlt
  refine ⟨hpos, Nat.le_of_lt_succ he, ?_, ?_⟩
  · rw [Nat.pow_add]; omega
  · rw [Nat.pow_add]; omega

/-- A magnitude lies in segment e when its leading one and the four bits below it are what is left
above the lowest e + 3 bits. -/
theorem inSegment_iff {mag e : Nat} :
    InSegment mag e ↔
      1 ≤ e ∧ e ≤ 7 ∧ 16 ≤ mag / 2 ^ (e + 3) ∧ mag / 2 ^ (e + 3) < 32 := by
  have hlo : 16 * 2 ^ (e + 3) = 2 ^ (e + 7) := by ring
  have hhi : 32 * 2 ^ (e + 3) = 2 ^ (e + 8) := by ring
  rw [Nat.le_div_iff_mul_le (Nat.two_pow_pos _), Nat.div_lt_iff_lt_mul (Nat.two_pow_pos _), hlo, hhi]
  exact ⟨fun ⟨h1, h7, hl, hu⟩ => ⟨h1, h7, hl, hu⟩, fun ⟨h1, h7, hl, hu⟩ => ⟨h1, h7, hl, hu⟩⟩

namespace InSegment

variable {mag e e' : Nat}

theorem unique (h : InSegment mag e) (h' : InSegment mag e') : e = e' := by
  have hle : e + 7 < e' + 8 := (Nat.pow_lt_pow_iff_right (by decide)).mp (h.lower.trans_lt h'.upper)
  have hge : e' + 7 < e + 8 := (Nat.pow_lt_pow_iff_right (by decide)).mp (h'.lower.trans_lt h.upper)
  omega

theorem bounds (h : InSegment mag e) : 256 ≤ mag ∧ mag < 32768 :=
  ⟨(Nat.pow_le_pow_right (by decide) (Nat.add_le_add_right h.one_le 7)).trans h.lower,
    h.upper.trans_le (Nat.pow_le_pow_right (by decide) (Nat.add_le_add_right h.le_seven 8))⟩

/-- The companded value is e over the four bits below the leading one (R84, C3). -/
theorem compandWith_eq (h : InSegment mag e) :
    compandWith readSeglut mag = 16 * e + (mag / 2 ^ (e + 3) - 16) := by
  obtain ⟨hlo, hhi⟩ := h.bounds
  obtain ⟨-, -, hq, hq'⟩ := inSegment_iff.mp h
  have hmask : (mag >>> (e + 3)) &&& 0x0F = mag / 2 ^ (e + 3) - 16 := by
    rw [Nat.shiftRight_eq_div_pow]
    refine (Nat.and_two_pow_sub_one_eq_mod _ 4).trans ?_
    omega
  have hor : e <<< 4 ||| (mag / 2 ^ (e + 3) - 16) = 16 * e + (mag / 2 ^ (e + 3) - 16) := by
    rw [← Nat.shiftLeft_add_eq_or_of_lt (by omega), Nat.shiftLeft_eq, Nat.mul_comm]
  simp only [compandWith, if_pos hlo, (inSegment_readSeglut hlo hhi).unique h, hmask, hor]

end InSegment

/-! ### The codeword under the sign and the inversion -/

theorem saturate_magnitude_clampMin {v : Int} (h : -32768 ≤ v) :
    saturate (magnitude (clampMin v)) = min v.natAbs 32635 := by
  unfold saturate magnitude clampMin
  split_ifs <;> omega

theorem signTerm_clampMin (v : Int) : signTerm (clampMin v) = signTerm v := by
  unfold clampMin
  split
  · subst v; rfl
  · rfl

/-- The codeword before its even bits are inverted (R84, C1). -/
theorem alawEncode_xor (s : Sample) :
    alawEncode s ^^^ 0x55 =
      BitVec.ofNat 8 (compandWith readSeglut (min s.toInt.natAbs 32635)) ^^^ signTerm s.toInt := by
  simp only [alawEncode, alawEncodeWith, sint16]
  rw [saturate_magnitude_clampMin (BitVec.le_toInt s), signTerm_clampMin, BitVec.xor_assoc _ 0x55,
    BitVec.xor_self, BitVec.xor_zero]

/-- The sign term is bit 7 alone. -/
theorem xor_signTerm_mod (n : Nat) (v : Int) :
    (BitVec.ofNat 8 n ^^^ signTerm v).toNat % 128 = n % 128 := by
  have hsign : (signTerm v).setWidth 7 = 0 := by
    unfold signTerm; split <;> rfl
  have hlow : (BitVec.ofNat 8 n ^^^ signTerm v).setWidth 7 = BitVec.ofNat 7 n := by
    rw [BitVec.setWidth_xor, hsign, BitVec.setWidth_ofNat_of_le (by decide)]
    exact BitVec.xor_zero
  have hnat := congrArg BitVec.toNat hlow
  rwa [BitVec.toNat_setWidth, BitVec.toNat_ofNat] at hnat

/-- Settles O8: the low seven bits are the companded value, which is `compandWith_low` below 256
and `InSegment.compandWith_eq` from there on. -/
theorem encoderFollowsSegments : Obligations.EncoderFollowsSegments := by
  intro s mag c
  have hmax : mag ≤ 32635 := Nat.min_le_right _ _
  have hc : c = compandWith readSeglut mag % 128 :=
    (congrArg (·.toNat % 128) (alawEncode_xor s)).trans (xor_signTerm_mod _ _)
  constructor
  · intro hlow
    rw [hc, compandWith_low _ hlow]
    omega
  · intro hhigh
    have hseg := inSegment_readSeglut hhigh (by omega)
    refine ⟨_, hseg.one_le, hseg.le_seven, hseg.lower, hseg.upper, ?_⟩
    rw [hc, hseg.compandWith_eq]
    obtain ⟨-, he, -, hq⟩ := inSegment_iff.mp hseg
    omega

/-! ### Every byte is a codeword -/

/-- A magnitude with a given companded value, and not 0, so that both signs have it. -/
def codewordMagnitude (c : Nat) : Nat :=
  if c < 16 then 16 * c + 1 else (16 + c % 16) * 2 ^ (c / 16 + 3) + 1

theorem compandWith_codewordMagnitude {c : Nat} (h : c < 128) :
    compandWith readSeglut (codewordMagnitude c) = c := by
  unfold codewordMagnitude
  split
  · rw [compandWith_low _ (by omega)]
    omega
  · have hone : 1 < 2 ^ (c / 16 + 3) := Nat.one_lt_two_pow (by omega)
    have hquot : ((16 + c % 16) * 2 ^ (c / 16 + 3) + 1) / 2 ^ (c / 16 + 3) = 16 + c % 16 := by
      rw [Nat.mul_comm, Nat.mul_add_div (Nat.two_pow_pos _), Nat.div_eq_of_lt hone, Nat.add_zero]
    have hseg : InSegment ((16 + c % 16) * 2 ^ (c / 16 + 3) + 1) (c / 16) := by
      rw [inSegment_iff, hquot]
      omega
    rw [hseg.compandWith_eq, hquot]
    omega

theorem codewordMagnitude_bounds {c : Nat} (h : c < 128) :
    1 ≤ codewordMagnitude c ∧ codewordMagnitude c ≤ 32635 := by
  have hpow : 2 ^ (c / 16 + 3) ≤ 2 ^ 10 := Nat.pow_le_pow_right (by decide) (by omega)
  have hmul := Nat.mul_le_mul (by omega : 16 + c % 16 ≤ 31) hpow
  unfold codewordMagnitude
  split <;> omega

theorem alawEncode_ofInt_xor {v : Int} (h : v.natAbs ≤ 32635) :
    alawEncode (BitVec.ofInt 16 v) ^^^ 0x55 =
      BitVec.ofNat 8 (compandWith readSeglut v.natAbs) ^^^ signTerm v := by
  have hv : (BitVec.ofInt 16 v).toInt = v := BitVec.toInt_ofInt_eq_self (by decide) (by omega) (by omega)
  rw [alawEncode_xor, hv, Nat.min_eq_left h]

/-- A byte is its low seven bits under its sign bit. -/
theorem byte_eq_low_xor_sign : ∀ t : Byte,
    t = BitVec.ofNat 8 (t.toNat % 128) ^^^ (if t.getLsbD 7 then 0x80 else 0x00) := by decide

/-- A sample value whose codeword, its even bits not inverted yet, is a given byte. -/
def codewordValue (t : Byte) : Int :=
  if t.getLsbD 7 then codewordMagnitude (t.toNat % 128) else -codewordMagnitude (t.toNat % 128)

theorem codewordValue_natAbs (t : Byte) :
    (codewordValue t).natAbs = codewordMagnitude (t.toNat % 128) := by
  unfold codewordValue
  split <;> omega

theorem signTerm_codewordValue (t : Byte) :
    signTerm (codewordValue t) = if t.getLsbD 7 then 0x80 else 0x00 := by
  obtain ⟨hpos, -⟩ := codewordMagnitude_bounds (Nat.mod_lt t.toNat (by decide : 128 > 0))
  unfold codewordValue signTerm
  split
  · exact if_pos (by omega)
  · exact if_neg (by omega)

/-- Settles O13: the sample is `codewordValue` of the byte with its even bits inverted back. -/
theorem everyByteIsACodeword : Obligations.EveryByteIsACodeword := by
  intro b
  have hc := Nat.mod_lt (b ^^^ 0x55).toNat (by decide : 128 > 0)
  obtain ⟨-, hmax⟩ := codewordMagnitude_bounds hc
  refine ⟨BitVec.ofInt 16 (codewordValue (b ^^^ 0x55)), (BitVec.xor_left_inj 0x55).mp ?_⟩
  rw [alawEncode_ofInt_xor (by rwa [codewordValue_natAbs]), codewordValue_natAbs,
    compandWith_codewordMagnitude hc, signTerm_codewordValue, ← byte_eq_low_xor_sign]

end Sys2Proof.Proofs
end

section
/-! The encoder's laws (spec/40_companding.md R80 to R92), its error under the expansion of G1, and
the commands ENC and SEGRD (R85, R86). -/

namespace Sys2Proof.Proofs

open Sys2Proof.Machine

/-! ### What the table holds and which entries the encoder reads -/

/-- Settles O6: an entry is the number of bits of its index (`readSeglut_bracket`), and the entry a
magnitude reads is its segment (`inSegment_readSeglut`). -/
theorem compandingTableContents : Obligations.CompandingTableContents := by
  refine ⟨rfl, fun i hi => ?_, fun mag hlo hhi => ?_⟩
  · have hne : i ≠ 0 := fun h0 => by simp [h0] at hi
    obtain ⟨hpos, hge, hlt⟩ := readSeglut_bracket i hne
    obtain ⟨e, he⟩ := Nat.exists_eq_add_of_le' hpos
    rw [he] at hge hlt ⊢
    rw [(Nat.log2_eq_iff (by omega)).mpr ⟨by rw [Nat.pow_succ] at hge; omega, hlt⟩]
  · have hseg := inSegment_readSeglut hlo (by omega)
    exact ⟨hseg.lower, hseg.upper⟩

/-- No companded value depends on entry 0 (R82). -/
theorem compandWith_congr {lut : BitVec 7 → BitVec 3} (hlut : ∀ i, i ≠ 0 → lut i = readSeglut i)
    {mag : Nat} (h : mag < 32768) : compandWith lut mag = compandWith readSeglut mag := by
  rcases Nat.lt_or_ge mag 256 with hlow | hhigh
  · rw [compandWith_low lut hlow, compandWith_low readSeglut hlow]
  · rw [compandWith, compandWith, hlut _ (magIndex_ne_zero hhigh h)]

/-- Settles O7: the index is not 0 (`magIndex_ne_zero`), and so entry 0 decides no companded value
(`compandWith_congr`). -/
theorem entryZeroNeverEncodes : Obligations.EntryZeroNeverEncodes := by
  refine ⟨fun mag hlo hhi => ?_, fun lut hlut s => ?_⟩
  · have hidx := magIndex_toNat (mag := mag) (by omega)
    exact ⟨hidx, by omega⟩
  · rw [alawEncode, alawEncodeWith, alawEncodeWith, sint16,
      saturate_magnitude_clampMin (BitVec.le_toInt s), compandWith_congr hlut (by omega)]

/-! ### The companded value over all magnitudes -/

/-- The companded values of segment e are 16 e to 16 e + 15. -/
theorem InSegment.compandWith_bounds {mag e : Nat} (h : InSegment mag e) :
    16 * e ≤ compandWith readSeglut mag ∧ compandWith readSeglut mag < 16 * (e + 1) := by
  obtain ⟨-, -, hq, hq'⟩ := inSegment_iff.mp h
  rw [h.compandWith_eq]
  omega

theorem InSegment.exponent_mono {a b e e' : Nat} (h : InSegment a e) (h' : InSegment b e')
    (hab : a ≤ b) : e ≤ e' := by
  have hexp : e + 7 < e' + 8 :=
    (Nat.pow_lt_pow_iff_right (by decide)).mp (h.lower.trans_lt (hab.trans_lt h'.upper))
  omega

theorem compandWith_lt {mag : Nat} (h : mag < 32768) : compandWith readSeglut mag < 128 := by
  rcases Nat.lt_or_ge mag 256 with hlow | hhigh
  · rw [compandWith_low _ hlow]
    omega
  · have hseg := inSegment_readSeglut hhigh h
    obtain ⟨-, hlt⟩ := hseg.compandWith_bounds
    have hle := hseg.le_seven
    omega

/-- From 31744 on a magnitude is in the last step of the last segment (R89). -/
theorem compandWith_top {mag : Nat} (hlo : 31744 ≤ mag) (hhi : mag < 32768) :
    compandWith readSeglut mag = 0x7F := by
  have hquot : mag / 2 ^ (7 + 3) = 31 := by omega
  have hseg : InSegment mag 7 := by
    rw [inSegment_iff, hquot]
    decide
  rw [hseg.compandWith_eq, hquot]

/-- Step 3 changes no companded value (R89). -/
theorem compandWith_min {mag : Nat} (h : mag < 32768) :
    compandWith readSeglut (min mag 32635) = compandWith readSeglut mag := by
  rcases Nat.le_total mag 32635 with hle | hge
  · rw [Nat.min_eq_left hle]
  · rw [Nat.min_eq_right hge, compandWith_top (by decide) (by decide),
      compandWith_top (by omega) h]

/-- A segment's companded values lie below the next one's, and within a segment they grow with the
bits below the leading one (R91). -/
theorem compandWith_mono {a b : Nat} (hab : a ≤ b) (hb : b < 32768) :
    compandWith readSeglut a ≤ compandWith readSeglut b := by
  rcases Nat.lt_or_ge b 256 with hblow | hbhigh
  · rw [compandWith_low _ hblow, compandWith_low _ (hab.trans_lt hblow)]
    exact Nat.div_le_div_right hab
  have hsegb := inSegment_readSeglut hbhigh hb
  obtain ⟨hge, -⟩ := hsegb.compandWith_bounds
  rcases Nat.lt_or_ge a 256 with halow | hahigh
  · have hone := hsegb.one_le
    rw [compandWith_low _ halow]
    omega
  have hsega := inSegment_readSeglut hahigh (hab.trans_lt hb)
  rcases (hsega.exponent_mono hsegb hab).lt_or_eq with hlt | heq
  · obtain ⟨-, hlast⟩ := hsega.compandWith_bounds
    omega
  · rw [hsega.compandWith_eq, hsegb.compandWith_eq, heq]
    exact Nat.add_le_add_left (Nat.sub_le_sub_right (Nat.div_le_div_right hab) 16) _

/-! ### The companded value of a sample -/

/-- The companded value of a sample (R84, steps 1 to 4). -/
def companded (s : Sample) : Nat := compandWith readSeglut (min s.toInt.natAbs 32635)

theorem companded_lt (s : Sample) : companded s < 128 := compandWith_lt (by omega)

/-- The companded value is that of the sample's value after step 1, with no step 3 (R89). -/
theorem companded_eq_clampMin (s : Sample) :
    companded s = compandWith readSeglut (clampMin s.toInt).natAbs := by
  have hlo := BitVec.le_toInt s
  have hhi := BitVec.toInt_lt (x := s)
  have habs : min s.toInt.natAbs 32635 = min (clampMin s.toInt).natAbs 32635 ∧
      (clampMin s.toInt).natAbs < 32768 := by
    unfold clampMin
    split <;> omega
  rw [companded, habs.1, compandWith_min habs.2]

theorem alawEncode_eq (s : Sample) :
    alawEncode s = BitVec.ofNat 8 (companded s) ^^^ signTerm s.toInt ^^^ 0x55 := by
  rw [companded, ← alawEncode_xor, BitVec.xor_assoc, BitVec.xor_self, BitVec.xor_zero]

/-- The low seven bits under the inversion are the companded value. -/
theorem alawEncode_xor_mod (s : Sample) : (alawEncode s ^^^ 0x55).toNat % 128 = companded s := by
  rw [alawEncode_xor, xor_signTerm_mod]
  exact Nat.mod_eq_of_lt (companded_lt s)

/-! ### The sign law -/

theorem signTerm_getLsbD_seven (v : Int) : (signTerm v).getLsbD 7 = decide (0 ≤ v) := by
  unfold signTerm
  split
  next h => simp [h]
  next h => simp [h]

/-- The inversion of the even bits leaves bit 7 alone. -/
theorem xor_inversion_getLsbD_seven (b : Byte) : (b ^^^ 0x55).getLsbD 7 = b.getLsbD 7 := by
  simp

/-- Bit 7 of a codeword is the sign (R90). -/
theorem alawEncode_getLsbD_seven (s : Sample) :
    (alawEncode s).getLsbD 7 = decide (0 ≤ s.toInt) := by
  have hlow : (companded s).testBit 7 = false := Nat.testBit_lt_two_pow (companded_lt s)
  rw [alawEncode_eq, xor_inversion_getLsbD_seven, BitVec.getLsbD_xor, signTerm_getLsbD_seven,
    BitVec.getLsbD_ofNat, hlow, Bool.and_false, Bool.false_xor]

/-- Settles O11: `alawEncode_getLsbD_seven`, and the inversion leaves bit 7 alone. -/
theorem signLaw : Obligations.SignLaw := by
  intro s
  rw [xor_inversion_getLsbD_seven]
  exact ⟨alawEncode_getLsbD_seven s, rfl⟩

/-! ### Saturation -/

/-- Every saturated sample has the codeword of its sign (R89). -/
theorem alawEncode_of_saturated {s : Sample} (h : 32635 ≤ s.toInt.natAbs) :
    alawEncode s = if 0 < s.toInt then 0xAA else 0x2A := by
  have hc : companded s = 0x7F := by
    rw [companded, Nat.min_eq_right h, compandWith_top (by decide) (by decide)]
  rw [alawEncode_eq, hc, signTerm]
  by_cases hpos : 0 < s.toInt
  · rw [if_pos hpos.le, if_pos hpos]
    rfl
  · rw [if_neg (by omega), if_neg hpos]
    rfl

theorem saturate_magnitude (v : Int) : saturate (magnitude v) = min v.natAbs 32635 := by
  unfold saturate magnitude
  split_ifs <;> omega

theorem toInt_ofInt_of_natAbs {v : Int} (h : v.natAbs ≤ 32767) : (BitVec.ofInt 16 v).toInt = v :=
  BitVec.toInt_ofInt_eq_self (by decide) (by omega) (by omega)

/-- Settles O10: `alawEncode_of_saturated` for a sample and for its sign's saturated value,
`compandWith_top` with and without step 3, and step 1 is absorbed by step 3. -/
theorem saturationLaw : Obligations.SaturationLaw := by
  refine ⟨fun s hs => ?_, fun mag hlo hhi => ?_, fun s => ?_⟩
  · have hsat : (s.toInt.sign * 32635).natAbs = 32635 := by
      rw [Int.natAbs_mul, Int.natAbs_sign_of_ne_zero (by omega)]
      rfl
    have hval := toInt_ofInt_of_natAbs (hsat.trans_le (by decide))
    have hsign : 0 < s.toInt.sign * 32635 ↔ 0 < s.toInt := by
      rw [mul_pos_iff_of_pos_right (by decide), Int.sign_pos_iff]
    have henc := alawEncode_of_saturated (s := BitVec.ofInt 16 (s.toInt.sign * 32635))
      (by rw [hval, hsat])
    simp only [hval, hsign] at henc
    exact ⟨(alawEncode_of_saturated hs).trans henc.symm, alawEncode_of_saturated hs⟩
  · have hsat : 31744 ≤ saturate mag ∧ saturate mag < 32768 := by
      unfold saturate
      split <;> omega
    exact ⟨compandWith_top hlo (by omega), compandWith_top hsat.1 hsat.2⟩
  · rw [sint16, saturate_magnitude, saturate_magnitude_clampMin (BitVec.le_toInt s)]

/-- Settles O9: both samples are saturated and negative. -/
theorem clampEquivalence : Obligations.ClampEquivalence :=
  ⟨alawEncode_of_saturated (by decide), alawEncode_of_saturated (by decide)⟩

/-! ### Symmetry and monotonicity -/

/-- A value and its negative share the companded value, so their codewords differ in the sign term
alone (R91). -/
theorem alawEncode_xor_alawEncode_of_neg {s t : Sample} (h : t.toInt = -s.toInt) :
    alawEncode s ^^^ alawEncode t = signTerm s.toInt ^^^ signTerm t.toInt := by
  have hc : companded t = companded s := by rw [companded, companded, h, Int.natAbs_neg]
  rw [alawEncode_eq, alawEncode_eq, hc]
  generalize BitVec.ofNat 8 (companded s) = c
  generalize signTerm s.toInt = x
  generalize signTerm t.toInt = y
  calc c ^^^ x ^^^ 0x55 ^^^ (c ^^^ y ^^^ 0x55)
      = c ^^^ c ^^^ (0x55 ^^^ 0x55) ^^^ (x ^^^ y) := by ac_rfl
    _ = x ^^^ y := by simp

theorem signTerm_xor_signTerm_neg {v : Int} (h : v ≠ 0) : signTerm v ^^^ signTerm (-v) = 0x80 := by
  unfold signTerm
  rcases Int.lt_or_gt_of_ne h with hneg | hpos
  · rw [if_neg (by omega), if_pos (by omega)]
    rfl
  · rw [if_pos (by omega), if_neg (by omega)]
    rfl

/-- The codeword of a non-negative sample under the inversion of its even bits and its sign. -/
theorem alawEncode_xor_D5_toNat {s : Sample} (h : 0 ≤ s.toInt) :
    (alawEncode s ^^^ 0xD5).toNat = companded s := by
  have hmask : (0x80 : Byte) ^^^ 0x55 ^^^ 0xD5 = 0 := by decide
  rw [alawEncode_eq, signTerm, if_pos h, BitVec.xor_assoc, BitVec.xor_assoc,
    ← BitVec.xor_assoc 0x80, hmask]
  refine (congrArg BitVec.toNat BitVec.xor_zero).trans ((BitVec.toNat_ofNat _ _).trans ?_)
  exact Nat.mod_eq_of_lt ((companded_lt s).trans (by decide))

/-- Settles O12: the sign terms of v and -v differ in bit 7, and under its sign and the inversion
the codeword of a non-negative sample is its companded value, which is monotone. -/
theorem symmetryAndMonotonicity : Obligations.SymmetryAndMonotonicity := by
  refine ⟨fun v hpos hmax => ?_, fun a b ha hab hb => ?_⟩
  · have hv := toInt_ofInt_of_natAbs hmax
    have hneg := toInt_ofInt_of_natAbs (v := -v) (by omega)
    rw [alawEncode_xor_alawEncode_of_neg (by rw [hneg, hv]), hv, hneg]
    exact signTerm_xor_signTerm_neg (by omega)
  · have hva := toInt_ofInt_of_natAbs (v := a) (by omega)
    have hvb := toInt_ofInt_of_natAbs (v := b) (by omega)
    rw [alawEncode_xor_D5_toNat (by omega), alawEncode_xor_D5_toNat (by omega), companded,
      companded, hva, hvb]
    exact compandWith_mono (by omega) (by omega)

/-! ### The error under the expansion of G1 -/

/-- The magnitude that G1's expansion gives a companded value. -/
def expandedMagnitude (c : Nat) : Nat :=
  if c / 16 = 0 then c % 16 * 16 + 8 else (c % 16 * 16 + 0x108) * 2 ^ (c / 16 - 1)

/-- A codeword's exponent, under the inversion, is bits 6 to 4. -/
theorem extractLsb'_exponent (t : Byte) : (t.extractLsb' 4 3).toNat = t.toNat % 128 / 16 := by
  rw [BitVec.extractLsb'_toNat, Nat.shiftRight_eq_div_pow]
  omega

theorem alawDecode_eq (b : Byte) :
    alawDecode b =
      if (b ^^^ 0x55).getLsbD 7 then (expandedMagnitude ((b ^^^ 0x55).toNat % 128) : Int)
      else -expandedMagnitude ((b ^^^ 0x55).toNat % 128) := by
  have hexp : ((b ^^^ 0x55).extractLsb' 4 3).toNat = (b ^^^ 0x55).toNat % 128 / 16 :=
    extractLsb'_exponent _
  have hman : ((b ^^^ 0x55).extractLsb' 0 4).toNat = (b ^^^ 0x55).toNat % 128 % 16 := by
    rw [BitVec.extractLsb'_toNat, Nat.shiftRight_zero]
    omega
  simp only [alawDecode, hexp, hman, expandedMagnitude]

/-- In segment e the expansion is the middle of the magnitudes with the same companded value. -/
theorem InSegment.expandedMagnitude_eq {mag e : Nat} (h : InSegment mag e) :
    expandedMagnitude (16 * e + (mag / 2 ^ (e + 3) - 16)) =
      2 ^ (e + 3) * (mag / 2 ^ (e + 3)) + 2 ^ (e + 2) := by
  obtain ⟨hone, -, hq, hq'⟩ := inSegment_iff.mp h
  obtain ⟨k, rfl⟩ := Nat.exists_eq_add_of_le' hone
  obtain ⟨m, hm⟩ := Nat.exists_eq_add_of_le' hq
  rw [hm] at hq' ⊢
  have hexp : (16 * (k + 1) + (m + 16 - 16)) / 16 = k + 1 := by omega
  have hman : (16 * (k + 1) + (m + 16 - 16)) % 16 = m := by omega
  rw [expandedMagnitude, hexp, hman, if_neg (Nat.succ_ne_zero k), Nat.add_sub_cancel]
  ring

/-- Companding a magnitude and expanding it again errs by at most half a quantisation step (X8). -/
theorem expandedMagnitude_compandWith_error {mag : Nat} (h : mag < 32768) :
    ((mag : Int) - expandedMagnitude (compandWith readSeglut mag)).natAbs ≤
      if compandWith readSeglut mag / 16 = 0 then 8
      else 2 ^ (compandWith readSeglut mag / 16 + 2) := by
  rcases Nat.lt_or_ge mag 256 with hlow | hhigh
  · have hexp : mag / 16 / 16 = 0 := by omega
    rw [compandWith_low _ hlow, expandedMagnitude, if_pos hexp, if_pos hexp]
    omega
  · have hseg := inSegment_readSeglut hhigh h
    generalize (readSeglut (magIndex mag)).toNat = e at hseg
    obtain ⟨hge, hlast⟩ := hseg.compandWith_bounds
    have hexp : compandWith readSeglut mag / 16 = e := by omega
    have hone := hseg.one_le
    rw [hexp, hseg.compandWith_eq, hseg.expandedMagnitude_eq, if_neg (by omega)]
    have hdiv := Nat.div_add_mod mag (2 ^ (e + 3))
    have hmod := Nat.mod_lt mag (Nat.two_pow_pos (e + 3))
    have hstep : 2 ^ (e + 3) = 2 * 2 ^ (e + 2) := by ring
    omega

/-- Settles O14: the codeword holds the sample's sign (`alawEncode_getLsbD_seven`) and companded
value (`alawEncode_xor_mod`), so the error is that of the magnitude after step 1. -/
theorem expansionErrorBound : Obligations.ExpansionErrorBound := by
  intro s w e
  have hexp : e = companded s / 16 := by
    rw [← alawEncode_xor_mod s]
    exact extractLsb'_exponent _
  have hlo := BitVec.le_toInt s
  have hhi := BitVec.toInt_lt (x := s)
  obtain ⟨hsign, hlt⟩ : (0 ≤ w ↔ 0 ≤ s.toInt) ∧ w.natAbs < 32768 := by
    simp only [w]
    split <;> omega
  have herr := expandedMagnitude_compandWith_error hlt
  have hc : compandWith readSeglut w.natAbs = companded s := (companded_eq_clampMin s).symm
  rw [hc] at herr
  rw [hexp, alawDecode_eq, alawEncode_xor_mod, xor_inversion_getLsbD_seven,
    alawEncode_getLsbD_seven]
  refine le_of_eq_of_le ?_ herr
  by_cases hs : 0 ≤ s.toInt
  · rw [if_pos (decide_eq_true hs)]
    omega
  · rw [if_neg (by simpa using hs)]
    omega

/-! ### ENC and SEGRD -/

theorem exec_enc (p : Payload) (s : State) :
    exec (.enc p) s = .next { s with res := alawEncode p } := rfl

/-- Settles O15: `exec_enc`, and a word with OP 4 is the encoding of ENC. -/
theorem encWritesCodeword : Obligations.EncWritesCodeword := by
  have hzero : alawEncode 0 = 0xD5 := by decide
  exact ⟨exec_enc, fun p => decode_encode (i := .enc p) rfl, fun s => hzero ▸ exec_enc 0 s⟩

theorem tableIndex_toNat {p : Payload} (h : p.toNat < 128) : (tableIndex p).toNat = p.toNat := by
  rw [tableIndex, BitVec.extractLsb'_toNat, Nat.shiftRight_zero]
  exact Nat.mod_eq_of_lt h

theorem exec_segrd_of_lt {p : Payload} (h : p.toNat < 128) (s : State) :
    exec (.segrd p) s = .next { s with res := zext8 (readSeglut (tableIndex p)) } :=
  if_neg (not_not_intro ((segrdReserved_eq_zero_iff p).mpr h))

theorem exec_segrd_of_le {p : Payload} (h : 128 ≤ p.toNat) (s : State) :
    exec (.segrd p) s = .next (raiseFault .reservedPayload s) :=
  if_pos fun h0 => Nat.not_lt.mpr h ((segrdReserved_eq_zero_iff p).mp h0)

/-- A SEGRD word with an index from 128 on is illegal (R66). -/
theorem decode_segrd_of_le {p : Payload} (h : 128 ≤ p.toNat) :
    decode (0x5#4 ++ p) = .illegal .reservedPayload := by
  obtain ⟨hop, hp⟩ := Laws.EncodedFields.fields_of_append 0x5#4 p
  obtain ⟨-, hiff, -⟩ := illegalWordFaults (0x5#4 ++ p)
  rw [hiff, ← opField_toNat, ← payloadField_toNat, hop, hp]
  exact .inr ⟨rfl, h⟩

/-- Settles O16: a legal payload by `exec_segrd_of_lt`; a payload from 128 on faults in exec
(`exec_segrd_of_le`) and its word in the decoder (`decode_segrd_of_le`). -/
theorem segrdReadsTableOrFaults : Obligations.SegrdReadsTableOrFaults := by
  refine ⟨fun p s hp => ?_, fun p s hp => ?_, fun s => ?_⟩
  · refine ⟨tableIndex p, tableIndex_toNat hp, ?_, ?_⟩
    · rw [exec_segrd_of_lt hp, zext8, BitVec.ofNat_toNat]
    · exact decode_encode (i := .segrd p) (beq_iff_eq.mpr ((segrdReserved_eq_zero_iff p).mpr hp))
  · exact ⟨exec_segrd_of_le hp s, runWord_illegal (decode_segrd_of_le hp)⟩
  · exact ⟨exec_segrd_of_lt (by decide) s, exec_segrd_of_lt (by decide) s,
      exec_segrd_of_lt (by decide) s⟩

end Sys2Proof.Proofs
end

section
/-! The Frame Assembler's commands, each alone (spec/41_frame_assembler.md R100 to R105). -/

namespace Sys2Proof.Proofs

open Sys2Proof.Machine

variable {s t : State}

/-! ### PUSH in Active -/

/-- A read of BUF after a write to it, at every entry. -/
theorem bufRead_bufWrite (s : State) (n j : Nat) (p : Sample) :
    bufRead (bufWrite s n p) j = if j = n ∧ n < Config.frameMax then p else bufRead s j := by
  by_cases hj : j = n
  · subst hj
    by_cases hn : j < Config.frameMax
    · rw [if_pos ⟨rfl, hn⟩, bufRead_bufWrite_self s p hn]
    · rw [if_neg fun h => hn h.2, bufWrite_eq, Memory.store_outside _ _ (Nat.le_of_not_lt hn)]
  · rw [if_neg fun h => hj h.1, bufRead_bufWrite_ne s p hj]

/-- Byte j of a frame emitted from BUF is the codeword of BUF[j] (R93, R104). -/
theorem encodeFrame_bufPrefix_getElem? (s : State) {n j : Nat} (hj : j < n) :
    (encodeFrame (bufPrefix s n))[j]? = some (alawEncode (bufRead s j)) := by
  simp [encodeFrame, bufPrefix, hj]

theorem encodeFrame_length (f : List Sample) : (encodeFrame f).length = f.length :=
  List.length_map _

/-- Settles O22: after the store (`bufRead_bufWrite`) a PUSH emits the frame that BUF then holds
(`execPush_completing`), or FILL advances (`execPush_advancing`). -/
theorem pushInActive : Obligations.PushInActive := by
  intro p s ha
  by_cases hc : frameCompletes s = true
  · refine ⟨_, execPush_completing p ha hc, rfl, fun j => bufRead_bufWrite s s.fill.toNat j p, ?_⟩
    rw [if_pos (frameCompletes_iff.mp hc)]
    exact ⟨rfl, _, rfl, (encodeFrame_length _).trans (bufPrefix_length _ _),
      fun j hj => encodeFrame_bufPrefix_getElem? _ hj⟩
  · refine ⟨_, execPush_advancing p ha (Bool.eq_false_iff.mpr hc), rfl,
      fun j => bufRead_bufWrite s s.fill.toNat j p, ?_⟩
    rw [if_neg (mt frameCompletes_iff.mpr hc)]
    exact ⟨rfl, rfl⟩

/-- Settles O20: PUSH in Active (`pushInActive`) with FILL an entry of BUF, so that FILL + 1 does not
wrap, and an incomplete frame. -/
theorem pushStoresSample : Obligations.PushStoresSample := by
  intro p s ha hmax hne
  obtain ⟨t, hx, ht, hread, hbranch⟩ := pushInActive p s ha
  rw [if_neg hne] at hbranch
  obtain ⟨hfill, hout⟩ := hbranch
  refine ⟨t, hx, hout ▸ ht, ?_, ?_, fun j hj => ?_⟩
  · have hle := frameMax_le
    rw [hfill, BitVec.toNat_add]
    exact Nat.mod_eq_of_lt (show s.fill.toNat + 1 < 2 ^ 16 by omega)
  · rw [hread, if_pos ⟨rfl, hmax⟩]
  · rw [hread, if_neg fun h => hj h.1]

/-- Settles O21: PUSH in Active (`pushInActive`) with FILL an entry of BUF and a complete frame. -/
theorem pushCompletesFrame : Obligations.PushCompletesFrame := by
  intro p s ha hmax hc
  obtain ⟨t, hx, ht, hread, hbranch⟩ := pushInActive p s ha
  rw [if_pos hc] at hbranch
  obtain ⟨hfill, m, hout, hlen, hbyte⟩ := hbranch
  refine ⟨t, m, hx, hfill ▸ hout ▸ ht, hlen, fun j hj => ?_, ?_, fun j hj => ?_⟩
  · rw [hbyte j hj, hread]
    simp only [hmax, and_true]
  · rw [hread, if_pos ⟨rfl, hmax⟩]
  · rw [hread, if_neg fun h => hj h.1]

/-! ### START, STOP, and PUSH in Idle -/

theorem exec_start_accepted {n : Payload} (hi : s.phase = .idle) (hn : frameSizeLegal n = true) :
    exec (.start n) s = .next { s with frameSize := n, fill := 0, phase := .active } :=
  (if_neg (by simp [hi])).trans (if_pos hn)

theorem exec_start_badSize {n : Payload} (hi : s.phase = .idle) (hn : frameSizeLegal n = false) :
    exec (.start n) s = .next (raiseFault .badFrameSize s) :=
  (if_neg (by simp [hi])).trans (if_neg (Bool.eq_false_iff.mp hn))

theorem exec_start_active (n : Payload) (ha : s.phase = .active) :
    exec (.start n) s = .next (raiseFault .startActive s) :=
  if_pos ha

/-- The sizes up to 256 are legal whatever FRAME_MAX is (R10). -/
theorem frameSizeLegal_of_le {n : Payload} (h1 : 1 ≤ n.toNat) (h256 : n.toNat ≤ 256) :
    frameSizeLegal n = true :=
  (frameSizeLegal_iff n).mpr ⟨h1, Nat.le_trans h256 frameMax_ge⟩

/-- Settles O18: the outcomes of START by phase and size; after START 1 the first PUSH completes a
frame of the one sample it stores (`bufPrefix_bufWrite`). -/
theorem startOpensOrFaults : Obligations.StartOpensOrFaults := by
  refine ⟨fun n s hi h1 hmax => exec_start_accepted hi ((frameSizeLegal_iff n).mpr ⟨h1, hmax⟩),
    fun n s hi hn => exec_start_badSize hi ((frameSizeLegal_eq_false_iff n).mpr hn),
    fun n s ha => exec_start_active n ha, fun n => decode_encode (i := .start n) rfl,
    fun p s hi => ?_, exec_start_accepted rfl (frameSizeLegal_of_le (by decide) (by decide))⟩
  have hopen := exec_start_accepted hi (frameSizeLegal_of_le (n := 1) (by decide) (by decide))
  have hpush := execPush_completing (s := { s with frameSize := 1, fill := 0, phase := .active })
    p rfl rfl
  have hframe (t : State) : bufPrefix (bufWrite t 0 p) 1 = [p] :=
    bufPrefix_bufWrite t p (Nat.lt_of_lt_of_le (by decide) frameMax_ge)
  exact ⟨_, _, hopen, hpush, congrArg (fun f => s.frameOut ++ [encodeFrame f]) (hframe _), rfl⟩

/-- Settles O19 (R102). -/
theorem pushIgnoredInIdle : Obligations.PushIgnoredInIdle := by
  intro p s hi
  simp only [exec, execPush, hi]

theorem exec_stop_active (ha : s.phase = .active) :
    exec (.stop 0) s = .next { s with fill := 0, phase := .idle } := by
  simp [exec, execStop, ha, State.setFill, State.setPhase]

/-- A STOP word with a nonzero payload is illegal (R66). -/
theorem decode_stop_of_ne {p : Payload} (hp : p ≠ 0) :
    decode (0x3#4 ++ p) = .illegal .reservedPayload := by
  obtain ⟨hop, hpay⟩ := Laws.EncodedFields.fields_of_append 0x3#4 p
  obtain ⟨-, hiff, -⟩ := illegalWordFaults (0x3#4 ++ p)
  rw [hiff, ← opField_toNat, ← payloadField_toNat, hop, hpay]
  exact .inl ⟨rfl, fun h0 => hp (BitVec.eq_of_toNat_eq h0)⟩

/-- Settles O23: STOP by phase; a nonzero payload faults in exec, and its word in the decoder
(`decode_stop_of_ne`). -/
theorem stopClosesSession : Obligations.StopClosesSession :=
  ⟨fun _ ha => exec_stop_active ha, fun _ hi => execStop_idle hi,
    fun _ _ hp => ⟨if_pos hp, runWord_illegal (decode_stop_of_ne hp)⟩,
    decode_encode (i := .stop 0) rfl⟩

end Sys2Proof.Proofs
end

section
/-! Which commands and steps emit frames, and of what length (spec/41_frame_assembler.md R103,
R110). -/

namespace Sys2Proof.Proofs

open Sys2Proof.Machine

variable {s t u : State} {i : Instr}

/-! ### What one command emits -/

/-- Command i, run in state s, is the PUSH that completes a frame (R103). -/
def CompletingPush (i : Instr) (s : State) : Prop :=
  s.phase = .active ∧ s.fill.toNat + 1 = s.frameSize.toNat ∧ ∃ p, i = .push p

theorem not_completingPush (h : ∀ p, i ≠ .push p) : ¬ CompletingPush i s :=
  fun ⟨_, _, p, hp⟩ => h p hp

/-- A completing PUSH emits one message, of FRAMESIZE bytes; no other command emits any. -/
theorem exec_frameOut_cases (h : exec i s = .next t) :
    (CompletingPush i s ∧
      ∃ m : Message, t.frameOut = s.frameOut ++ [m] ∧ m.length = s.frameSize.toNat) ∨
    (¬ CompletingPush i s ∧ t.frameOut = s.frameOut) := by
  cases i with
  | start n =>
    rcases execStart_cases h with ⟨_, rfl⟩ | ⟨_, _, rfl⟩ | ⟨_, _, rfl⟩ <;>
      exact .inr ⟨not_completingPush nofun, rfl⟩
  | push p =>
    rcases execPush_cases h with ⟨hi, rfl⟩ | ⟨ha, hc, rfl⟩ | ⟨_, hc, rfl⟩
    · exact .inr ⟨fun ⟨ha, _⟩ => (nomatch hi.symm.trans ha), rfl⟩
    · exact .inl ⟨⟨ha, frameCompletes_iff.mp hc, p, rfl⟩, _, rfl,
        (encodeFrame_length _).trans (bufPrefix_length _ _)⟩
    · exact .inr ⟨fun ⟨_, hf, _⟩ => Bool.eq_false_iff.mp hc (frameCompletes_iff.mpr hf), rfl⟩
  | stop p =>
    rcases execStop_cases h with ⟨_, rfl⟩ | ⟨_, _, rfl⟩ | ⟨_, _, rfl⟩ <;>
      exact .inr ⟨not_completingPush nofun, rfl⟩
  | enc p => cases execEnc_cases h; exact .inr ⟨not_completingPush nofun, rfl⟩
  | segrd p =>
    rcases execSegrd_cases h with ⟨_, rfl⟩ | ⟨_, rfl⟩ <;>
      exact .inr ⟨not_completingPush nofun, rfl⟩

/-! ### What one step emits -/

/-- The step runs the PUSH that completes a frame. -/
def RunsCompletingPush (s : State) : Prop :=
  ∃ c i, presented s = some c ∧ decode c = .command i ∧ CompletingPush i s

theorem not_runsCompletingPush_of_none (hn : presented s = none) : ¬ RunsCompletingPush s :=
  fun ⟨_, _, hc, _⟩ => nomatch hn.symm.trans hc

/-- From an empty FRAME_OUT the consumer takes one message in a step that runs a completing PUSH,
and none in any other step. -/
theorem step_taken_cases (hout : s.frameOut = []) (h : step s = .next t) :
    (RunsCompletingPush s ∧
      ∃ m : Message, t.env.taken = s.env.taken ++ [m] ∧ m.length = s.frameSize.toNat) ∨
    (¬ RunsCompletingPush s ∧ t.env.taken = s.env.taken) := by
  have htaken : (accepting s).env.taken = s.env.taken := by rw [accepting_env]
  have hout' : (accepting s).frameOut = [] := by rw [accepting_eq]; exact hout
  rcases step_cases h with ⟨c, u, hc, hrun, rfl⟩ | ⟨hr, rfl⟩ | ⟨e, rest, hi, rfl⟩ | ⟨hn, _, _, rfl⟩
  · have hcons {v : State} : (consumeFrames v).env.taken = v.env.taken ++ v.frameOut :=
      foldl_take_taken v.frameOut v.env
    rcases runWord_cases hrun with ⟨i, hd, hx⟩ | ⟨f, hd, rfl⟩
    · obtain ⟨_, henv, _⟩ := exec_keeps_surroundings hx
      have hiff : RunsCompletingPush s ↔ CompletingPush i (accepting s) := by
        rw [accepting_eq]
        constructor
        · rintro ⟨c', i', hc', hd', hp⟩
          cases hc.symm.trans hc'
          cases hd.symm.trans hd'
          exact hp
        · exact fun hp => ⟨c, i, hc, hd, hp⟩
      rw [hcons, henv, htaken, hiff]
      rcases exec_frameOut_cases hx with ⟨hp, m, hm, hlen⟩ | ⟨hp, hu⟩
      · rw [hm, hout']
        exact .inl ⟨hp, m, rfl, by rw [hlen, accepting_eq]⟩
      · rw [hu, hout', List.append_nil]
        exact .inr ⟨hp, rfl⟩
    · refine .inr ⟨fun ⟨c', i', hc', hd', _⟩ => ?_, ?_⟩
      · cases hc.symm.trans hc'
        exact nomatch hd.symm.trans hd'
      · rw [hcons, show (raiseFault f (accepting s)).frameOut = [] from hout', List.append_nil]
        exact htaken
  · exact .inr ⟨not_runsCompletingPush_of_none (presented_of_reset hr), htaken⟩
  · exact .inr ⟨not_runsCompletingPush_of_none (by simp [presented, hi]),
      (apply_keeps_messages s.env e).1⟩
  · exact .inr ⟨not_runsCompletingPush_of_none hn, htaken⟩

/-- Settles O24: the two cases of `step_taken_cases`; one message more is a change. -/
theorem onlyCompletingPushEmits : Obligations.OnlyCompletingPushEmits := by
  intro s t hout h
  have hiff : RunsCompletingPush s ↔ s.phase = .active ∧ s.fill.toNat + 1 = s.frameSize.toNat ∧
      ∃ c p, presented s = some c ∧ decode c = .command (.push p) := by
    constructor
    · rintro ⟨c, _, hc, hd, ha, hf, p, rfl⟩
      exact ⟨ha, hf, c, p, hc, hd⟩
    · rintro ⟨ha, hf, c, p, hc, hd⟩
      exact ⟨c, _, hc, hd, ha, hf, p, rfl⟩
  rw [← hiff]
  rcases step_taken_cases hout h with ⟨hp, m, hm, hlen⟩ | ⟨hp, hsame⟩
  · exact ⟨iff_of_true (by simp [hm]) hp, fun _ => ⟨m, hm, hlen⟩⟩
  · exact ⟨iff_of_false (not_not_intro hsame) hp, fun hne => absurd hsame hne⟩

/-! ### FRAMESIZE and the messages of a session -/

/-- Only START writes FRAMESIZE, in Idle and with a legal size. -/
theorem exec_frameSize_cases (h : exec i s = .next t) :
    t.frameSize = s.frameSize ∨
    (s.phase = .idle ∧ ∃ n, i = .start n ∧ frameSizeLegal n = true ∧ t.frameSize = n) := by
  cases i with
  | start n =>
    rcases execStart_cases h with ⟨_, rfl⟩ | ⟨_, _, rfl⟩ | ⟨hi, hn, rfl⟩
    · exact .inl rfl
    · exact .inl rfl
    · exact .inr ⟨hi, n, rfl, hn, rfl⟩
  | push p =>
    obtain ⟨_, hsize, _, _⟩ := execPush_keeps_registers h
    exact .inl hsize
  | stop p => rcases execStop_cases h with ⟨_, rfl⟩ | ⟨_, _, rfl⟩ | ⟨_, _, rfl⟩ <;> exact .inl rfl
  | enc p => cases execEnc_cases h; exact .inl rfl
  | segrd p => rcases execSegrd_cases h with ⟨_, rfl⟩ | ⟨_, rfl⟩ <;> exact .inl rfl

/-- Only STOP ends a session. -/
theorem exec_keeps_active (hi : isStop i = false) (ha : s.phase = .active)
    (h : exec i s = .next t) : t.phase = .active := by
  cases i with
  | start n =>
    rcases execStart_cases h with ⟨_, rfl⟩ | ⟨_, _, rfl⟩ | ⟨_, _, rfl⟩
    · exact ha
    · exact ha
    · rfl
  | push p =>
    obtain ⟨hphase, _, _, _⟩ := execPush_keeps_registers h
    exact hphase.trans ha
  | stop p => exact nomatch hi
  | enc p => cases execEnc_cases h; exact ha
  | segrd p => rcases execSegrd_cases h with ⟨_, rfl⟩ | ⟨_, rfl⟩ <;> exact ha

/-- From s to t only messages of n bytes are added to FRAME_OUT. -/
def EmitsOnly (n : Nat) (s t : State) : Prop :=
  ∃ frames : List Message, t.frameOut = s.frameOut ++ frames ∧ ∀ m ∈ frames, m.length = n

theorem EmitsOnly.of_eq {n : Nat} (h : t.frameOut = s.frameOut) : EmitsOnly n s t :=
  ⟨[], by simp [h], by simp⟩

theorem EmitsOnly.trans {n : Nat} (hst : EmitsOnly n s t) (htu : EmitsOnly n t u) :
    EmitsOnly n s u := by
  obtain ⟨f, hf, hflen⟩ := hst
  obtain ⟨g, hg, hglen⟩ := htu
  exact ⟨f ++ g, by rw [hg, hf, List.append_assoc], List.forall_mem_append.mpr ⟨hflen, hglen⟩⟩

theorem exec_emitsOnly (h : exec i s = .next t) : EmitsOnly s.frameSize.toNat s t := by
  rcases exec_frameOut_cases h with ⟨_, m, hm, hlen⟩ | ⟨_, hsame⟩
  · exact ⟨[m], hm, by simpa using hlen⟩
  · exact .of_eq hsame

/-- A session's commands without STOP keep FRAMESIZE and emit only messages of its length. -/
theorem execAll_session (is : List Instr) (ha : s.phase = .active)
    (his : ∀ i ∈ is, isStop i = false) (h : execAll is s = .next t) :
    t.frameSize = s.frameSize ∧ EmitsOnly s.frameSize.toNat s t := by
  induction is generalizing s with
  | nil => cases h; exact ⟨rfl, .of_eq rfl⟩
  | cons i is ih =>
    obtain ⟨hi, his⟩ := List.forall_mem_cons.mp his
    unfold execAll at h
    cases hx : exec i s with
    | next u =>
      rw [hx] at h
      have hsize : u.frameSize = s.frameSize := (exec_frameSize_cases hx).resolve_right
        fun ⟨hidle, _⟩ => nomatch hidle.symm.trans ha
      obtain ⟨ht, hemits⟩ := ih (exec_keeps_active hi ha hx) his h
      rw [hsize] at ht hemits
      exact ⟨ht, (exec_emitsOnly hx).trans hemits⟩
    | fault r => nomatch r
    | refused r => simp [hx] at h

/-- Settles O28: one command by `exec_frameSize_cases`, a session's commands by `execAll_session`. -/
theorem frameSizeFixedInSession : Obligations.FrameSizeFixedInSession := by
  refine ⟨fun i s t h hne => ?_, fun is s t ha his h => execAll_session is ha his h⟩
  obtain ⟨hi, n, rfl, hn, ht⟩ := (exec_frameSize_cases h).resolve_left hne
  obtain ⟨h1, hmax⟩ := (frameSizeLegal_iff n).mp hn
  exact ⟨hi, n, rfl, h1, hmax, ht⟩

end Sys2Proof.Proofs
end

section
/-! Capture blocks in a session (spec/41_frame_assembler.md R107, R108): the samples buffered and
pushed are cut into whole frames, which are emitted, and a remainder, which stays buffered. -/

namespace Sys2Proof.Proofs

open Sys2Proof.Machine

variable {s t u : State}

/-! ### Lists cut into pieces of one length -/

section

variable {α : Type} {n : Nat} {pieces : List (List α)}

theorem length_flatten_of_uniform (h : ∀ w ∈ pieces, w.length = n) :
    pieces.flatten.length = pieces.length * n := by
  have hmap : pieces.map List.length = List.replicate pieces.length n :=
    List.eq_replicate_iff.mpr ⟨List.length_map _, by simpa using h⟩
  rw [List.length_flatten, hmap, List.sum_replicate_nat]

/-- Piece j holds the elements j n to j n + n - 1. -/
theorem getElem?_of_uniform (h : ∀ w ∈ pieces, w.length = n) (rest : List α) {j : Nat}
    (hj : j < pieces.length) :
    pieces[j]? = some (((pieces.flatten ++ rest).drop (j * n)).take n) := by
  induction pieces generalizing j with
  | nil => exact absurd hj (Nat.not_lt_zero j)
  | cons w ws ih =>
    obtain ⟨hw, hws⟩ := List.forall_mem_cons.mp h
    cases j with
    | zero => simp [← hw]
    | succ j =>
      have hdrop : ((w :: ws).flatten ++ rest).drop ((j + 1) * n) =
          (ws.flatten ++ rest).drop (j * n) := by
        rw [List.flatten_cons, List.append_assoc, Nat.succ_mul, Nat.add_comm, ← List.drop_drop,
          List.drop_left' hw]
      rw [hdrop]
      exact ih hws (Nat.lt_of_succ_lt_succ hj)

end

/-- The samples are whole frames of n samples each, in order, and a remainder shorter than that. -/
structure CutInto (n : Nat) (samples : List Sample) (whole : List (List Sample))
    (rest : List Sample) : Prop where
  samples_eq : samples = whole.flatten ++ rest
  whole_length : ∀ w ∈ whole, w.length = n
  rest_short : rest.length < n

namespace CutInto

variable {n k r : Nat} {samples rest frame : List Sample} {whole : List (List Sample)}

theorem of_length_lt (h : samples.length < n) : CutInto n samples [] samples where
  samples_eq := rfl
  whole_length := fun _ hw => nomatch hw
  rest_short := h

theorem cons (h : CutInto n samples whole rest) (hframe : frame.length = n) :
    CutInto n (frame ++ samples) (frame :: whole) rest where
  samples_eq := by rw [h.samples_eq, List.flatten_cons, List.append_assoc]
  whole_length := List.forall_mem_cons.mpr ⟨hframe, h.whole_length⟩
  rest_short := h.rest_short

theorem flatten_length (h : CutInto n samples whole rest) :
    whole.flatten.length = whole.length * n :=
  length_flatten_of_uniform h.whole_length

/-- k n + r samples with r < n are k frames and r samples more. -/
theorem count (h : CutInto n samples whole rest) (hr : r < n) (hlen : samples.length = k * n + r) :
    whole.length = k ∧ rest.length = r := by
  rw [h.samples_eq, List.length_append, h.flatten_length] at hlen
  have hdiv (a b : Nat) (hb : b < n) : (a * n + b) / n = a ∧ (a * n + b) % n = b :=
    (Nat.div_mod_unique (by omega)).mpr ⟨by rw [Nat.mul_comm, Nat.add_comm], hb⟩
  obtain ⟨hk, hr'⟩ := hdiv k r hr
  obtain ⟨hw, hrest⟩ := hdiv whole.length rest.length h.rest_short
  rw [hlen] at hw hrest
  exact ⟨hw.symm.trans hk, hrest.symm.trans hr'⟩

theorem count_div_mod (h : CutInto n samples whole rest) :
    whole.length = samples.length / n ∧ rest.length = samples.length % n :=
  h.count (Nat.mod_lt _ (Nat.zero_lt_of_lt h.rest_short)) (Nat.div_add_mod' _ _).symm

theorem take_eq (h : CutInto n samples whole rest) :
    samples.take (whole.length * n) = whole.flatten := by
  rw [h.samples_eq, ← h.flatten_length, List.take_left]

theorem drop_eq (h : CutInto n samples whole rest) :
    samples.drop (whole.length * n) = rest := by
  rw [h.samples_eq, ← h.flatten_length, List.drop_left]

theorem getElem?_eq (h : CutInto n samples whole rest) {j : Nat} (hj : j < whole.length) :
    whole[j]? = some ((samples.drop (j * n)).take n) := by
  rw [h.samples_eq]
  exact getElem?_of_uniform h.whole_length rest hj

end CutInto

/-! ### One PUSH in a session -/

/-- The samples of the frame in progress, in order (R24, R25). -/
def partialFrame (s : State) : List Sample := bufPrefix s s.fill.toNat

theorem partialFrame_length (s : State) : (partialFrame s).length = s.fill.toNat :=
  bufPrefix_length s _

/-- A PUSH appends its sample to the partial frame, and emits the frame if it is complete. -/
theorem execPush_partialFrame {p : Payload} (hs : ActiveSession s) (ha : s.phase = .active)
    (h : execPush p s = .next t) :
    (s.fill.toNat + 1 = s.frameSize.toNat ∧ partialFrame t = [] ∧
      t.frameOut = s.frameOut ++ [encodeFrame (partialFrame s ++ [p])]) ∨
    (partialFrame t = partialFrame s ++ [p] ∧ t.frameOut = s.frameOut) := by
  obtain ⟨_, hmax, hlt⟩ := hs ha
  have happend := bufPrefix_bufWrite s p (Nat.lt_of_lt_of_le hlt hmax)
  rcases execPush_cases h with ⟨hi, _⟩ | ⟨_, hc, rfl⟩ | ⟨_, _, rfl⟩
  · exact nomatch hi.symm.trans ha
  · have hc := frameCompletes_iff.mp hc
    refine .inl ⟨hc, rfl, ?_⟩
    rw [partialFrame, ← happend, hc]
    rfl
  · refine .inr ⟨?_, rfl⟩
    rw [partialFrame, partialFrame, ← happend, ← toNat_succ_of_lt hlt]
    rfl

/-! ### A block in a session -/

theorem execAll_pushb_cons {p : Sample} (ss : List Sample) (h : execPush p s = .next u) :
    execAll (pushb (p :: ss)) s = execAll (pushb ss) u := by
  simp only [pushb, List.map_cons, execAll, exec, h]

/-- From s to t the registers that PUSH does not write stand (R35). -/
def KeepsRegisters (s t : State) : Prop :=
  t.phase = s.phase ∧ t.frameSize = s.frameSize ∧ t.res = s.res ∧ t.err = s.err

theorem KeepsRegisters.trans (hst : KeepsRegisters s t) (htu : KeepsRegisters t u) :
    KeepsRegisters s u := by
  obtain ⟨hphase, hsize, hres, herr⟩ := hst
  obtain ⟨hphase', hsize', hres', herr'⟩ := htu
  exact ⟨hphase'.trans hphase, hsize'.trans hsize, hres'.trans hres, herr'.trans herr⟩

/-- The block's outcome: the registers of a session stand, the whole frames are emitted, and the
remainder is the new partial frame. -/
structure BlockPushed (s : State) (ss : List Sample) (t : State) (whole : List (List Sample)) :
    Prop where
  registers : KeepsRegisters s t
  frameOut : t.frameOut = s.frameOut ++ whole.map encodeFrame
  cut : CutInto s.frameSize.toNat (partialFrame s ++ ss) whole (partialFrame t)

/-- Each PUSH either completes a frame, the first of those that the block gives, or moves its sample
to the partial frame. -/
theorem execAll_pushb (hs : ActiveSession s) (ha : s.phase = .active) (ss : List Sample) :
    ∃ t whole, execAll (pushb ss) s = .next t ∧ BlockPushed s ss t whole := by
  induction ss generalizing s with
  | nil =>
    obtain ⟨_, _, hlt⟩ := hs ha
    refine ⟨s, [], rfl, ⟨rfl, rfl, rfl, rfl⟩, (List.append_nil _).symm, ?_⟩
    rw [List.append_nil]
    exact .of_length_lt (by rwa [partialFrame_length])
  | cons p ss ih =>
    obtain ⟨u, hx⟩ : ∃ u, execPush p s = .next u := ⟨_, execPush_active ha⟩
    obtain ⟨hphase, hsize, hres, herr⟩ := execPush_keeps_registers hx
    have hregs : KeepsRegisters s u := ⟨hphase, hsize, hres, herr⟩
    obtain ⟨t, whole, hrun, ⟨hregs', hout', hcut⟩⟩ :=
      ih (exec_keeps_activeSession (i := .push p) hs hx) (hphase.trans ha)
    rw [← execAll_pushb_cons ss hx] at hrun
    rw [hsize] at hcut
    have hassoc : partialFrame s ++ p :: ss = partialFrame s ++ [p] ++ ss :=
      List.append_cons _ _ _
    rcases execPush_partialFrame hs ha hx with ⟨hc, hpart, hout⟩ | ⟨hpart, hout⟩
    · have hframe : (partialFrame s ++ [p]).length = s.frameSize.toNat := by
        rw [List.length_append, partialFrame_length]
        exact hc
      rw [hpart] at hcut
      refine ⟨t, (partialFrame s ++ [p]) :: whole, hrun, hregs.trans hregs', ?_,
        hassoc ▸ hcut.cons hframe⟩
      rw [hout', hout, List.append_assoc]
      rfl
    · rw [hpart, ← hassoc] at hcut
      exact ⟨t, whole, hrun, hregs.trans hregs', hout ▸ hout', hcut⟩

theorem encodeFrame_flatten (whole : List (List Sample)) :
    (whole.map encodeFrame).flatten = encodeFrame whole.flatten :=
  List.map_flatten.symm

/-- Settles O25: the cut of the block (`execAll_pushb`), counted by its length. -/
theorem blockFramesAndRemainder : Obligations.BlockFramesAndRemainder := by
  intro s ss hs ha n f all q
  obtain ⟨_, hactive⟩ := hs
  obtain ⟨t, whole, hrun, ⟨hphase, hsize, hres, herr⟩, hout, hcut⟩ := execAll_pushb hactive ha ss
  have hlen : all.length = f + ss.length := by
    rw [List.length_append, bufPrefix_length]
  change CutInto n all whole (partialFrame t) at hcut
  obtain ⟨hwhole, hrest⟩ := hcut.count_div_mod
  rw [hlen] at hwhole hrest
  have hq : whole.length = q := hwhole
  refine ⟨t, whole.map encodeFrame, hrun, hphase.trans ha, hsize, hres, herr,
    (partialFrame_length t).symm.trans hrest, hout, ?_, ?_, ?_, ?_⟩
  · rw [List.length_map, hq]
  · exact List.forall_mem_map.mpr fun w hw =>
      (encodeFrame_length w).trans (hcut.whole_length w hw)
  · rw [← hq, hcut.take_eq, encodeFrame_flatten]
  · rw [← hq, hcut.drop_eq]
    rfl

/-! ### A session -/

theorem flatMap_pushb (blocks : List (List Sample)) :
    blocks.flatMap pushb = pushb blocks.flatten := by
  rw [List.flatMap_def]
  exact List.map_flatten.symm

/-- Settles O26: START opens an empty session, in which the blocks are one block
(`flatMap_pushb`), cut by `execAll_pushb`; STOP then closes it. -/
theorem sessionFrameCount : Obligations.SessionFrameCount := by
  intro s n blocks k r hi h1 hmax hr hlen
  have hstart := exec_start_accepted hi ((frameSizeLegal_iff n).mpr ⟨h1, hmax⟩)
  obtain ⟨u, whole, hrun, ⟨hphase, _⟩, hout, hcut⟩ :=
    execAll_pushb (s := { s with frameSize := n, fill := 0, phase := .active })
      (fun _ => ⟨h1, hmax, h1⟩) rfl blocks.flatten
  change CutInto n.toNat blocks.flatten whole (partialFrame u) at hcut
  obtain ⟨hwhole, hrest⟩ := hcut.count hr hlen
  have hfill : u.fill.toNat = r := (partialFrame_length u).symm.trans hrest
  refine ⟨u, _, whole.map encodeFrame, ?_, hout, ?_, fun j hj => ?_, hfill, ?_,
    exec_stop_active hphase, rfl, rfl, rfl⟩
  · rw [execAll, hstart, flatMap_pushb]
    exact hrun
  · rw [List.length_map, hwhole]
  · rw [List.getElem?_map, hcut.getElem?_eq (hwhole ▸ hj), Option.map_some]
  · rw [← hwhole, hcut.drop_eq, ← hfill]
    rfl

end Sys2Proof.Proofs
end

section
/-! The command faults and the step that always answers (spec/60_exceptions.md R130 to R133,
R160). -/

namespace Sys2Proof.Proofs

open Sys2Proof.Machine

variable {s t : State} {i : Instr} {c : CmdWord}

/-! ### Every step answers a next state -/

theorem execStop_next (p : Payload) (s : State) : ∃ t, execStop p s = .next t := by
  by_cases hp : p = 0
  · subst hp
    cases hphase : s.phase with
    | idle => exact ⟨_, execStop_idle hphase⟩
    | active => exact ⟨_, exec_stop_active hphase⟩
  · exact ⟨_, if_pos hp⟩

theorem execSegrd_next (p : Payload) (s : State) : ∃ t, execSegrd p s = .next t := by
  by_cases hp : segrdReserved p = 0
  · exact ⟨_, if_neg (not_not_intro hp)⟩
  · exact ⟨_, if_pos hp⟩

/-- Every command answers a next state in every state: its faults are next states too. -/
theorem exec_next (i : Instr) (s : State) : ∃ t, exec i s = .next t := by
  cases i with
  | start n =>
    cases hphase : s.phase with
    | idle =>
      cases hn : frameSizeLegal n with
      | false => exact ⟨_, exec_start_badSize hphase hn⟩
      | true => exact ⟨_, exec_start_accepted hphase hn⟩
    | active => exact ⟨_, exec_start_active n hphase⟩
  | push p =>
    cases hphase : s.phase with
    | idle => exact ⟨_, pushIgnoredInIdle p s hphase⟩
    | active => exact ⟨_, execPush_active hphase⟩
  | stop p => exact execStop_next p s
  | enc p => exact ⟨_, rfl⟩
  | segrd p => exact execSegrd_next p s

theorem runWord_next (c : CmdWord) (s : State) : ∃ t, runWord c s = .next t := by
  cases hd : decode c with
  | command i => rw [runWord_command hd]; exact exec_next i s
  | illegal f => exact ⟨_, runWord_illegal hd⟩

theorem handOff_runWord_next (c : CmdWord) (s : State) : ∃ t, handOff (runWord c s) = .next t := by
  obtain ⟨u, hu⟩ := runWord_next c s
  exact ⟨consumeFrames u, by rw [hu, handOff]⟩

theorem acceptInput_next (x : Input) (s : State) : ∃ t, acceptInput x s = .next t := by
  cases x with
  | command c => exact handOff_runWord_next _ _
  | serialSample a b => exact handOff_runWord_next _ _
  | issued =>
    unfold acceptInput
    cases s.env.outbox with
    | nil => exact ⟨_, rfl⟩
    | cons c rest => exact handOff_runWord_next _ _
  | blockSample =>
    unfold acceptInput
    cases s.env.readySample with
    | none => exact ⟨_, rfl⟩
    | some p => exact handOff_runWord_next _ _
  | reset c => exact ⟨_, rfl⟩
  | env e => exact ⟨_, rfl⟩

/-- Settles O41: every input answers a next state (`acceptInput_next`), since every word does. -/
theorem stepNeverStalls : Obligations.StepNeverStalls := by
  intro s
  unfold step nextStep
  cases s.inputs with
  | nil => exact ⟨s, rfl⟩
  | cons x rest => exact acceptInput_next x _

/-! ### A faulting word writes ERR and nothing else -/

/-- A command that faults does nothing but record its fault (R130, R132). -/
theorem exec_fault {f : CommandFault} (hf : commandFault i s.phase = some f) :
    exec i s = .next (raiseFault f s) := by
  cases i with
  | start n =>
    cases hphase : s.phase with
    | idle =>
      cases hn : frameSizeLegal n with
      | false =>
        simp only [commandFault, hphase, hn, reduceCtorEq, if_false, Bool.false_eq_true] at hf
        cases hf
        exact exec_start_badSize hphase hn
      | true => simp [commandFault, hphase, hn] at hf
    | active =>
      simp only [commandFault, hphase, if_true] at hf
      cases hf
      exact exec_start_active n hphase
  | push p => exact nomatch hf
  | stop p =>
    by_cases hp : p = 0
    · rw [commandFault, if_pos hp] at hf; exact nomatch hf
    · rw [commandFault, if_neg hp] at hf; cases hf; exact if_pos hp
  | enc p => exact nomatch hf
  | segrd p =>
    by_cases hp : segrdReserved p = 0
    · rw [commandFault, if_pos hp] at hf; exact nomatch hf
    · rw [commandFault, if_neg hp] at hf; cases hf; exact if_pos hp

theorem runWord_fault {f : CommandFault} (hf : faultOf c s.phase = some f) :
    runWord c s = .next (raiseFault f s) := by
  rw [faultOf_eq] at hf
  cases hd : decode c with
  | command i => rw [hd] at hf; rw [runWord_command hd]; exact exec_fault hf
  | illegal g => rw [hd] at hf; cases hf; exact runWord_illegal hd

/-- Settles O31: a faulting word only records its fault (`runWord_fault`) and emits nothing; a word
without a fault leaves ERR (`step_err`). -/
theorem faultsFollowCheckOrder : Obligations.FaultsFollowCheckOrder := by
  intro s c rest hout hi
  constructor
  · intro f hf
    have hnil : (raiseFault f { s with inputs := rest }).frameOut = [] := hout
    rw [step_command hi, runWord_fault (s := { s with inputs := rest }) hf, handOff,
      consumeFrames_of_nil hnil]
    rfl
  · intro hf
    obtain ⟨t, h⟩ := stepNeverStalls s
    have hr : presentsReset s = false := by rw [presentsReset, hi]
    have hc : presented s = some c := by rw [presented, hi]
    refine ⟨t, h, ?_⟩
    rw [step_err hr h, hc, Option.bind_some, hf, errAfter_none]

/-! ### The values of ERR -/

theorem faultCode_le (f : CommandFault) : (faultCode f).toNat ≤ 4 := by
  cases f <;> decide

theorem errAfter_le {err : Byte} (herr : err.toNat ≤ 4) (f : Option CommandFault) :
    (errAfter err f).toNat ≤ 4 := by
  by_cases h0 : err = 0
  · subst h0
    cases f with
    | none => exact herr
    | some f => rw [errAfter_zero_some]; exact faultCode_le f
  · rwa [errAfter_of_ne h0]

/-- Settles O33: a step without reset records at most one of the four codes (`step_err`). -/
theorem errHoldsDefinedCodes : Obligations.ErrHoldsDefinedCodes := by
  refine ⟨by decide, fun s t herr h => ?_⟩
  cases hr : presentsReset s with
  | false => rw [step_err hr h]; exact errAfter_le herr _
  | true => rw [step_err_reset hr h]; decide

/-- Settles O34: the two commands answer (`exec_next`), and neither has a fault to record
(`exec_err`). -/
theorem pushAndEncNeverFault : Obligations.PushAndEncNeverFault := by
  intro p s
  obtain ⟨t, hpush⟩ := exec_next (.push p) s
  obtain ⟨u, henc⟩ := exec_next (.enc p) s
  exact ⟨⟨t, hpush, exec_err hpush⟩, u, henc, exec_err henc⟩

end Sys2Proof.Proofs
end

section
/-! The environment agents' moves (spec/60_exceptions.md R151 to R157): what each writes, said once,
and from it CONN's transitions and the controller's start and stop. -/

namespace Sys2Proof.Proofs

open Sys2Proof.Machine

/-! ### What each move writes -/

theorem establish_eq (e : Env) :
    e.establish = { e with conn := if e.conn = .connecting then .opened else e.conn } := by
  obtain ⟨_ | _ | _ | _⟩ := e <;> rfl

theorem failConn_eq (e : Env) :
    e.failConn = { e with
      conn := if e.conn = .connecting ∨ e.conn = .opened then .closed else e.conn
      establishFailed := if e.conn = .connecting then true else e.establishFailed } := by
  obtain ⟨_ | _ | _ | _⟩ := e <;> rfl

theorem closeConn_eq (e : Env) :
    e.closeConn = { e with
      conn := if e.conn = .connecting ∨ e.conn = .opened then .closing else e.conn } := by
  obtain ⟨_ | _ | _ | _⟩ := e <;> rfl

theorem confirmClose_eq (e : Env) :
    e.confirmClose = { e with conn := if e.conn = .closing then .closed else e.conn } := by
  obtain ⟨_ | _ | _ | _⟩ := e <;> rfl

theorem deliver_eq (e : Env) :
    e.deliver = { e with
      inFlight := e.inFlight.tail
      arrived := e.arrived ++ e.inFlight.take 1 } := by
  unfold Env.deliver
  split
  · next h => rw [h, List.take_nil, List.append_nil, List.tail_nil, ← h]
  · next h => rw [h]; rfl

theorem lose_eq (e : Env) : e.lose = { e with inFlight := e.inFlight.tail } := by
  unfold Env.lose
  split
  · next h => rw [h, List.tail_nil, ← h]
  · next h => rw [h]; rfl

theorem controllerStop_eq (e : Env) :
    e.controllerStop = { e with
      conn := e.closeConn.conn
      ctrl := .idle
      source := false
      acquiring := none
      outbox := e.outbox ++ [encode (.stop 0)] } := by
  simp only [Env.controllerStop, Env.issue, closeConn_eq]

theorem startAccepted_iff (e : Env) :
    e.startAccepted = true ↔
      e.ctrl = .idle ∧ e.acquiring = none ∧ e.source = false ∧ e.conn = .closed ∧
        e.captured = [] := by
  simp [Env.startAccepted, and_assoc]

theorem controllerStart_accepted {e : Env} (h : e.startAccepted = true) (n : Payload) :
    e.controllerStart n = { e with acquiring := some (sourceRequest n) } := if_pos h

theorem controllerStart_ignored {e : Env} (h : e.startAccepted = false) (n : Payload) :
    e.controllerStart n = e := if_neg (Bool.eq_false_iff.mp h)

theorem acquisition_none {e : Env} (h : e.acquiring = none) (granted : Bool) :
    e.acquisition granted = e := by
  unfold Env.acquisition
  rw [h]

theorem acquisition_granted {e : Env} {r : SourceRequest} (h : e.acquiring = some r) :
    e.acquisition true = { e with
      acquiring := none
      source := true
      ctrl := .capturing
      conn := .connecting
      establishFailed := false
      outbox := e.outbox ++ [encode (.start r.frameSize)] } := by
  unfold Env.acquisition
  rw [h]
  rfl

theorem acquisition_refused {e : Env} {r : SourceRequest} (h : e.acquiring = some r) :
    e.acquisition false = { e with acquiring := none, reports := e.reports + 1 } := by
  unfold Env.acquisition
  rw [h]
  rfl

theorem captureEnds_idle {e : Env} (h : e.ctrl = .idle) : e.captureEnds = e := by
  simp only [Env.captureEnds, h]

theorem captureEnds_capturing {e : Env} (h : e.ctrl = .capturing) :
    e.captureEnds = e.controllerStop := by
  simp only [Env.captureEnds, h]

theorem watchClosed_idle {e : Env} (h : e.ctrl = .idle) : e.watchClosed = e := by
  simp [Env.watchClosed, h]

theorem watchClosed_closed {e : Env} (hctrl : e.ctrl = .capturing) (hconn : e.conn = .closed) :
    e.watchClosed =
      if e.establishFailed || Config.autoStopOnClosed then e.controllerStop else e := by
  simp [Env.watchClosed, hctrl, hconn]

/-- Looking at CONN is a stop() or nothing. -/
theorem watchClosed_cases (e : Env) : e.watchClosed = e.controllerStop ∨ e.watchClosed = e :=
  ite_eq_or_eq ..

/-- The source's end is a stop() or nothing. -/
theorem captureEnds_cases (e : Env) : e.captureEnds = e.controllerStop ∨ e.captureEnds = e := by
  cases h : e.ctrl with
  | idle => exact .inr (captureEnds_idle h)
  | capturing => exact .inl (captureEnds_capturing h)

/-! ### The controller's start and stop -/

/-- Settles O48: the answers to a request, and a request only where all is released
(`startAccepted_iff`). -/
theorem controllerStart : Obligations.ControllerStart := by
  refine ⟨fun e n hctrl hacq hsource hconn hcaptured => ?_, fun e n hbusy => ?_,
    fun e r h => ⟨acquisition_granted h, acquisition_refused h⟩⟩
  · exact controllerStart_accepted
      ((startAccepted_iff e).mpr ⟨hctrl, hacq, hsource, hconn, hcaptured⟩) n
  · refine controllerStart_ignored (Bool.eq_false_iff.mpr fun h => ?_) n
    obtain ⟨hctrl, hacq, hsource, hconn, hcaptured⟩ := (startAccepted_iff e).mp h
    simp [hctrl, hacq, hsource, hconn, hcaptured] at hbusy

/-- Settles O49: stop() as `controllerStop_eq` says, and the steps that run it. -/
theorem controllerStop : Obligations.ControllerStop := by
  refine ⟨fun e => ?_, fun e h => captureEnds_capturing h, fun e hctrl hconn => ?_⟩
  · simp only [Env.apply, controllerStop_eq, true_and]
  · have hwatch := watchClosed_closed hctrl hconn
    exact ⟨fun hf => by rwa [hf] at hwatch, fun hf => by rwa [hf] at hwatch⟩

/-! ### CONN's transitions -/

theorem establish_conn (e : Env) :
    e.establish.conn = if e.conn = .connecting then .opened else e.conn := by
  rw [establish_eq]

theorem failConn_conn (e : Env) :
    e.failConn.conn = if e.conn = .connecting ∨ e.conn = .opened then .closed else e.conn := by
  rw [failConn_eq]

theorem closeConn_conn (e : Env) :
    e.closeConn.conn = if e.conn = .connecting ∨ e.conn = .opened then .closing else e.conn := by
  rw [closeConn_eq]

theorem confirmClose_conn (e : Env) :
    e.confirmClose.conn = if e.conn = .closing then .closed else e.conn := by
  rw [confirmClose_eq]

theorem closeConn_rank (e : Env) : e.conn.rank ≤ e.closeConn.conn.rank := by
  rw [closeConn_conn]
  cases e.conn <;> decide

theorem controllerStop_rank (e : Env) : e.conn.rank ≤ e.controllerStop.conn.rank := by
  rw [controllerStop_eq]
  exact closeConn_rank e

/-- Only open(), or the grant that calls it, moves CONN back (R151). -/
theorem apply_rank (e : Env) {ev : EnvEvent} (hopen : ev ≠ .openCall)
    (hgrant : ev ≠ .acquired true) : e.conn.rank ≤ (e.apply ev).conn.rank := by
  have of_eq {e' : Env} (h : e'.conn = e.conn) : e.conn.rank ≤ e'.conn.rank :=
    Nat.le_of_eq (congrArg Conn.rank h.symm)
  cases ev with
  | startCall n => exact of_eq (by simp only [Env.apply, Env.controllerStart]; split <;> rfl)
  | acquired granted =>
    cases granted with
    | true => exact absurd rfl hgrant
    | false => exact of_eq (by simp only [Env.apply, Env.acquisition]; split <;> rfl)
  | audioCallback b => exact of_eq (by simp only [Env.apply, Env.deliverBlock]; split <;> rfl)
  | stopCall => exact controllerStop_rank e
  | sourceEnded =>
    rcases captureEnds_cases e with h | h
    · simpa only [Env.apply, h] using controllerStop_rank e
    · exact of_eq (by rw [Env.apply, h])
  | seesClosed =>
    rcases watchClosed_cases e with h | h
    · simpa only [Env.apply, h] using controllerStop_rank e
    · exact of_eq (by rw [Env.apply, h])
  | openCall => exact absurd rfl hopen
  | established => rw [Env.apply, establish_conn]; cases e.conn <;> decide
  | connFailed => rw [Env.apply, failConn_conn]; cases e.conn <;> decide
  | closeCall => exact closeConn_rank e
  | closeConfirmed => rw [Env.apply, confirmClose_conn]; cases e.conn <;> decide
  | delivered => exact of_eq (by rw [Env.apply, deliver_eq])
  | lost => exact of_eq (by rw [Env.apply, lose_eq])

end Sys2Proof.Proofs
end

section
/-! What a step does to the agents (spec/60_exceptions.md R150 to R154): the send gate and
CONN. -/

namespace Sys2Proof.Proofs

open Sys2Proof.Machine

variable {s t u : State} {c : CmdWord}

/-! ### The block's step and the agents' step -/

theorem runWord_keeps_surroundings (h : runWord c s = .next t) :
    t.inputs = s.inputs ∧ t.env = s.env := by
  rcases runWord_cases h with ⟨i, _, hx⟩ | ⟨f, _, rfl⟩
  · obtain ⟨hin, henv, _⟩ := exec_keeps_surroundings hx
    exact ⟨hin, henv⟩
  · exact ⟨rfl, rfl⟩

theorem presentsEnv_of_presented (h : presented s = some c) : presentsEnv s = false := by
  unfold presented at h
  unfold presentsEnv
  split at h <;> simp_all

theorem presentsEnv_of_reset (h : presentsReset s = true) : presentsEnv s = false := by
  unfold presentsReset at h
  unfold presentsEnv
  split at h <;> simp_all

/-- A step is an agent's move, or the agents have no part in it but that the consumer takes its
messages. -/
theorem step_env_cases (h : step s = .next t) :
    (∃ ev, presentsEnv s = true ∧ t.env = s.env.apply ev) ∨
    (presentsEnv s = false ∧ ∃ ms : List Message, t.env = ms.foldl Env.take (accepting s).env) := by
  rcases step_cases h with ⟨c, u, hc, hrun, rfl⟩ | ⟨hr, rfl⟩ | ⟨ev, rest, hi, rfl⟩ | ⟨_, _, hn, rfl⟩
  · obtain ⟨_, henv⟩ := runWord_keeps_surroundings hrun
    exact .inr ⟨presentsEnv_of_presented hc, u.frameOut, henv ▸ rfl⟩
  · exact .inr ⟨presentsEnv_of_reset hr, [], rfl⟩
  · exact .inl ⟨ev, by rw [presentsEnv, hi], rfl⟩
  · exact .inr ⟨hn, [], rfl⟩

/-- A step of the block leaves CONN, and takes its messages through the gate by CONN (R152). -/
theorem step_consumes (hn : presentsEnv s = false) (h : step s = .next t) :
    ∃ ms : List Message, t.env.conn = s.env.conn ∧ t.env.taken = s.env.taken ++ ms ∧
      t.env.sent = (if s.env.conn = .opened then s.env.sent ++ ms else s.env.sent) ∧
      t.env.inFlight =
        (if s.env.conn = .opened then s.env.inFlight ++ ms else s.env.inFlight) := by
  rcases step_env_cases h with ⟨_, hp, _⟩ | ⟨_, ms, hms⟩
  · exact nomatch hn.symm.trans hp
  · rw [foldl_take, accepting_env] at hms
    exact ⟨ms, by rw [hms], by rw [hms], by rw [hms], by rw [hms]⟩

/-- A step of an agent takes and transmits nothing. -/
theorem step_agent_keeps_messages (hp : presentsEnv s = true) (h : step s = .next t) :
    t.env.taken = s.env.taken ∧ t.env.sent = s.env.sent := by
  rcases step_env_cases h with ⟨ev, _, henv⟩ | ⟨hn, _⟩
  · rw [henv]; exact apply_keeps_messages s.env ev
  · exact nomatch hn.symm.trans hp

/-- Settles O46: an agent's step takes nothing, and the block's consumes as `step_consumes` says. -/
theorem sendGate : Obligations.SendGate := by
  intro s t _ h
  cases hp : presentsEnv s with
  | true =>
    obtain ⟨htaken, hsent⟩ := step_agent_keeps_messages hp h
    exact ⟨fun m hm => absurd (htaken.symm.trans hm) (by simp), fun _ => hsent⟩
  | false =>
    obtain ⟨ms, _, htaken, hsent, hflight⟩ := step_consumes hp h
    refine ⟨fun m hm hopen => ?_, fun hnone => ?_⟩
    · obtain rfl : ms = [m] := List.append_cancel_left (htaken.symm.trans hm)
      rw [hsent, hflight, if_pos hopen, if_pos hopen]
      exact ⟨rfl, rfl⟩
    · rcases hnone with hsame | hclosed
      · obtain rfl : ms = [] := List.append_right_eq_self.mp (htaken.symm.trans hsame)
        rw [hsent, List.append_nil, ite_self]
      · rw [hsent, if_neg hclosed]

/-- Settles O47: each transition by its equation (`establish_conn` and its like), the order by
`apply_rank`, and the block's steps by `step_consumes`. -/
theorem connTransitions : Obligations.ConnTransitions := by
  refine ⟨fun e => rfl, establish_conn, failConn_conn, closeConn_conn, confirmClose_conn,
    fun e ev => ?_, fun s t hn h => ?_, rfl⟩
  · by_cases hopen : ev = .openCall
    · exact .inl hopen
    · by_cases hgrant : ev = .acquired true
      · exact .inr (.inl hgrant)
      · exact .inr (.inr (apply_rank e hopen hgrant))
  · obtain ⟨_, hconn, _⟩ := step_consumes hn h
    exact hconn

end Sys2Proof.Proofs
end

section
/-! The agents' invariant, kept by every step (spec/60_exceptions.md R154 to R156). -/

namespace Sys2Proof.Proofs

open Sys2Proof.Machine

variable {s t : State} {e : Env}

/-! ### What a step accepts leaves its queue -/

theorem accepting_inputs_sublist (s : State) : (accepting s).inputs.Sublist s.inputs := by
  unfold accepting
  cases hi : s.inputs with
  | nil => exact List.sublist_nil.mpr hi
  | cons x rest => cases x <;> exact List.sublist_cons_self _ rest

theorem accepting_outbox_sublist (s : State) : (accepting s).env.outbox.Sublist s.env.outbox := by
  unfold accepting
  split
  · exact List.tail_sublist _
  · dsimp only
    split <;> exact .refl _
  all_goals exact .refl _

theorem accepting_captured_sublist (s : State) :
    (accepting s).env.captured.Sublist s.env.captured := by
  unfold accepting
  split
  · exact .refl _
  · dsimp only
    split
    · exact List.tail_sublist _
    · exact .refl _
  all_goals exact .refl _

/-! ### The block's side keeps the invariant -/

theorem envInv_foldl_take (h : EnvInv e) (ms : List Message) : EnvInv (ms.foldl Env.take e) := by
  rw [foldl_take]
  by_cases hopen : e.conn = .opened
  · simp only [if_pos hopen]
    exact { h with
      delivery_order := List.append_assoc .. ▸ h.delivery_order.append (.refl ms)
      sent_order := h.sent_order.append (.refl ms) }
  · simp only [if_neg hopen]
    exact { h with sent_order := h.sent_order.trans (List.sublist_append_left _ ms) }

theorem envInv_accepting (h : EnvInv s.env) : EnvInv (accepting s).env := by
  have hcaptured := accepting_captured_sublist s
  rw [accepting_env]
  exact { h with
    acquiring_no_block := fun ha => List.sublist_nil.mp (h.acquiring_no_block ha ▸ hcaptured) }

/-! ### The agents' moves keep the invariant -/

/-- CONN and the mark of a failed establishment move together. -/
theorem envInv_conn (h : EnvInv e) {conn : Conn} {failed : Bool}
    (hfailed : failed = true → conn = .closed) :
    EnvInv { e with conn := conn, establishFailed := failed } :=
  { h with failed_closed := hfailed }

theorem envInv_controllerStop (h : EnvInv e) : EnvInv e.controllerStop := by
  rw [controllerStop_eq, closeConn_conn]
  exact { h with
    source_iff := by simp
    acquiring_idle := nofun
    acquiring_no_block := nofun
    failed_closed := fun hf => by simp [h.failed_closed hf] }

theorem envInv_controllerStart (h : EnvInv e) (n : Payload) : EnvInv (e.controllerStart n) := by
  cases hacc : e.startAccepted with
  | false => rwa [controllerStart_ignored hacc]
  | true =>
    obtain ⟨hctrl, _, _, _, hcaptured⟩ := (startAccepted_iff e).mp hacc
    rw [controllerStart_accepted hacc]
    exact { h with acquiring_idle := fun _ => hctrl, acquiring_no_block := fun _ => hcaptured }

theorem envInv_acquisition (h : EnvInv e) (granted : Bool) : EnvInv (e.acquisition granted) := by
  cases hacq : e.acquiring with
  | none => rwa [acquisition_none hacq]
  | some r =>
    cases granted with
    | false =>
      rw [acquisition_refused hacq]
      exact { h with acquiring_idle := nofun, acquiring_no_block := nofun }
    | true =>
      rw [acquisition_granted hacq]
      exact { h with
        source_iff := by simp
        acquiring_idle := nofun
        acquiring_no_block := nofun
        failed_closed := nofun }

theorem envInv_deliverBlock (h : EnvInv e) (block : List Sample) :
    EnvInv (e.deliverBlock block) := by
  cases hctrl : e.ctrl with
  | idle => rwa [deliverBlock_idle hctrl]
  | capturing =>
    rw [deliverBlock_capturing hctrl]
    exact { h with
      acquiring_no_block := fun ha => nomatch hctrl.symm.trans (h.acquiring_idle ha) }

theorem envInv_deliver (h : EnvInv e) : EnvInv e.deliver := by
  have horder := h.delivery_order
  rw [← List.take_append_drop 1 e.inFlight, ← List.append_assoc, List.drop_one] at horder
  rw [deliver_eq]
  exact { h with delivery_order := horder }

theorem envInv_lose (h : EnvInv e) : EnvInv e.lose := by
  rw [lose_eq]
  exact { h with
    delivery_order :=
      ((List.Sublist.refl e.arrived).append (List.tail_sublist _)).trans h.delivery_order }

/-- Every move of an agent keeps the agents' invariant. -/
theorem envInv_apply (h : EnvInv e) (ev : EnvEvent) : EnvInv (e.apply ev) := by
  cases ev with
  | startCall n => exact envInv_controllerStart h n
  | acquired granted => exact envInv_acquisition h granted
  | audioCallback block => exact envInv_deliverBlock h block
  | stopCall => exact envInv_controllerStop h
  | sourceEnded =>
    rcases captureEnds_cases e with he | he
    · rw [Env.apply, he]; exact envInv_controllerStop h
    · rwa [Env.apply, he]
  | seesClosed =>
    rcases watchClosed_cases e with he | he
    · rw [Env.apply, he]; exact envInv_controllerStop h
    · rwa [Env.apply, he]
  | openCall => exact envInv_conn h nofun
  | established =>
    rw [Env.apply, establish_eq]
    exact envInv_conn h fun hf => by simp [h.failed_closed hf]
  | connFailed =>
    rw [Env.apply, failConn_eq]
    refine envInv_conn h fun hf => ?_
    by_cases hc : e.conn = .connecting
    · rw [if_pos (.inl hc)]
    · rw [if_neg hc] at hf
      simp [h.failed_closed hf]
  | closeCall =>
    rw [Env.apply, closeConn_eq]
    exact envInv_conn h fun hf => by simp [h.failed_closed hf]
  | closeConfirmed =>
    rw [Env.apply, confirmClose_eq]
    exact envInv_conn h fun hf => by simp [h.failed_closed hf]
  | delivered => exact envInv_deliver h
  | lost => exact envInv_lose h

/-- Settles O50: the invariant is kept by the agents' moves (`envInv_apply`), by what the block
accepts and by what the consumer takes. -/
theorem stepKeepsEnvironment : Obligations.StepKeepsEnvironment := by
  intro s t hs h
  rcases step_env_cases h with ⟨ev, _, henv⟩ | ⟨_, ms, henv⟩
  · rw [henv]; exact envInv_apply hs ev
  · rw [henv]; exact envInv_foldl_take (envInv_accepting hs) ms

end Sys2Proof.Proofs
end

section
/-! Where nothing can start capture, nothing is sent: after STOP (spec/60_exceptions.md R137, R102),
and after a stop() before the acquisition completes (R158). -/

namespace Sys2Proof.Proofs

open Sys2Proof.Machine

variable {s t u : State} {i : Instr} {c : CmdWord} {e : Env}

/-! ### A command that is no START, in Idle -/

theorem exec_keeps_idle (hstart : isStart i = false) (hi : s.phase = .idle)
    (h : exec i s = .next t) : t.phase = .idle := by
  cases i with
  | start n => exact nomatch hstart
  | push p =>
    obtain ⟨hphase, _⟩ := execPush_keeps_registers h
    exact hphase.trans hi
  | stop p =>
    rcases execStop_cases h with ⟨_, rfl⟩ | ⟨_, _, rfl⟩ | ⟨_, _, rfl⟩
    · exact hi
    · exact hi
    · rfl
  | enc p => cases execEnc_cases h; exact hi
  | segrd p => rcases execSegrd_cases h with ⟨_, rfl⟩ | ⟨_, rfl⟩ <;> exact hi

/-- In Idle no command emits (R102). -/
theorem exec_idle_keeps_frameOut (hi : s.phase = .idle) (h : exec i s = .next t) :
    t.frameOut = s.frameOut := by
  rcases exec_frameOut_cases h with ⟨⟨ha, _⟩, _⟩ | ⟨_, hsame⟩
  · exact nomatch hi.symm.trans ha
  · exact hsame

theorem execAll_idle (is : List Instr) (hi : s.phase = .idle) (his : ∀ i ∈ is, isStart i = false)
    (h : execAll is s = .next t) : t.frameOut = s.frameOut ∧ t.phase = .idle := by
  induction is generalizing s with
  | nil => cases h; exact ⟨rfl, hi⟩
  | cons i is ih =>
    obtain ⟨hstart, his⟩ := List.forall_mem_cons.mp his
    obtain ⟨u, hx⟩ := exec_next i s
    rw [execAll, hx] at h
    obtain ⟨hout, hphase⟩ := ih (exec_keeps_idle hstart hi hx) his h
    exact ⟨hout.trans (exec_idle_keeps_frameOut hi hx), hphase⟩

/-- Settles O27: STOP leaves the block Idle with FRAME_OUT as it was, and so do the commands after
it (`execAll_idle`). -/
theorem noFrameAfterStop : Obligations.NoFrameAfterStop := by
  intro s u t is hstop his h
  obtain ⟨hstopOut, hidle⟩ : u.frameOut = s.frameOut ∧ u.phase = .idle := by
    rcases execStop_cases hstop with ⟨hne, _⟩ | ⟨_, hi, rfl⟩ | ⟨_, _, rfl⟩
    · exact absurd rfl hne
    · exact ⟨rfl, hi⟩
    · exact ⟨rfl, rfl⟩
  obtain ⟨hout, hphase⟩ := execAll_idle is hidle his h
  exact ⟨hout.trans hstopOut, hphase⟩

/-- In Idle a word that is no START emits nothing and leaves the block Idle. -/
theorem runWord_idle (hc : isStartWord c = false) (hi : s.phase = .idle)
    (h : runWord c s = .next t) : t.phase = .idle ∧ t.frameOut = s.frameOut := by
  rcases runWord_cases h with ⟨i, hd, hx⟩ | ⟨f, _, rfl⟩
  · simp only [isStartWord, hd] at hc
    exact ⟨exec_keeps_idle hc hi hx, exec_idle_keeps_frameOut hi hx⟩
  · exact ⟨hi, rfl⟩

theorem isStartWord_encode {i : Instr} (hwf : i.wellFormed = true) :
    isStartWord (encode i) = isStart i := by
  simp only [isStartWord, decode_encode hwf]

/-! ### The agents where nothing is captured -/

/-- The controller's part of `Quiet`. -/
structure EnvQuiet (e : Env) : Prop where
  ctrl_idle : e.ctrl = .idle
  no_source : e.source = false
  none_pending : e.acquiring = none
  no_start_issued : ∀ c ∈ e.outbox, isStartWord c = false

theorem quiet_iff (s : State) :
    Quiet s ↔ s.phase = .idle ∧ s.frameOut = [] ∧ EnvQuiet s.env ∧
      ∀ x ∈ s.inputs, Input.startsNothing x = true :=
  ⟨fun ⟨hi, hout, hctrl, hsource, hacq, hissued, hin⟩ =>
      ⟨hi, hout, ⟨hctrl, hsource, hacq, hissued⟩, hin⟩,
    fun ⟨hi, hout, ⟨hctrl, hsource, hacq, hissued⟩, hin⟩ =>
      ⟨hi, hout, hctrl, hsource, hacq, hissued, hin⟩⟩

/-- A stop() with no START issued leaves nothing that can start capture, an acquisition pending
before it or not (R156, R158). -/
theorem envQuiet_controllerStop (h : ∀ c ∈ e.outbox, isStartWord c = false) :
    EnvQuiet e.controllerStop := by
  have hstop : isStartWord (encode (.stop 0)) = false := isStartWord_encode rfl
  rw [controllerStop_eq]
  exact ⟨rfl, rfl, rfl, List.forall_mem_append.mpr ⟨h, List.forall_mem_singleton.mpr hstop⟩⟩

/-- Without a call of start() the agents' moves start nothing. -/
theorem envQuiet_apply (h : EnvQuiet e) {ev : EnvEvent}
    (hev : Input.startsNothing (.env ev) = true) : EnvQuiet (e.apply ev) := by
  cases ev with
  | startCall n => exact nomatch hev
  | acquired granted => rwa [Env.apply, acquisition_none h.none_pending]
  | audioCallback block => rwa [Env.apply, deliverBlock_idle h.ctrl_idle]
  | stopCall => exact envQuiet_controllerStop h.no_start_issued
  | sourceEnded => rwa [Env.apply, captureEnds_idle h.ctrl_idle]
  | seesClosed => rwa [Env.apply, watchClosed_idle h.ctrl_idle]
  | openCall => exact { h with }
  | established => rw [Env.apply, establish_eq]; exact { h with }
  | connFailed => rw [Env.apply, failConn_eq]; exact { h with }
  | closeCall => rw [Env.apply, closeConn_eq]; exact { h with }
  | closeConfirmed => rw [Env.apply, confirmClose_eq]; exact { h with }
  | delivered => rw [Env.apply, deliver_eq]; exact { h with }
  | lost => rw [Env.apply, lose_eq]; exact { h with }

/-! ### A step where nothing is captured -/

/-- What a step accepts is off its queue, and nothing else changes. -/
theorem quiet_accepting (h : Quiet s) : Quiet (accepting s) := by
  obtain ⟨hi, hout, henv, hin⟩ := (quiet_iff s).mp h
  rw [quiet_iff, accepting_eq]
  refine ⟨hi, hout, ?_, fun x hx => hin x ((accepting_inputs_sublist s).subset hx)⟩
  rw [accepting_env]
  exact { henv with
    no_start_issued := fun c hc =>
      henv.no_start_issued c ((accepting_outbox_sublist s).subset hc) }

/-- The word that a step presents is no START. -/
theorem quiet_presented (h : Quiet s) (hc : presented s = some c) : isStartWord c = false := by
  have hin := h.no_start_presented
  have hpush (p : Sample) : isStartWord (encode (.push p)) = false := isStartWord_encode rfl
  unfold presented at hc
  split at hc
  · next hi =>
    cases hc
    exact Bool.eq_false_of_not_eq_true' (hin (.command c) (hi ▸ List.mem_cons_self))
  · cases hc; exact hpush _
  · exact h.no_start_issued c (List.mem_of_mem_head? hc)
  · obtain ⟨p, _, rfl⟩ := Option.map_eq_some_iff.mp hc
    exact hpush p
  all_goals exact nomatch hc

/-- In a quiet state a presented word emits nothing, so that the consumer changes nothing. -/
theorem quiet_runWord (h : Quiet s) (hc : isStartWord c = false) (hrun : runWord c s = .next u) :
    Quiet (consumeFrames u) ∧ (consumeFrames u).env = s.env := by
  obtain ⟨hi, hout, henv, hin⟩ := (quiet_iff s).mp h
  obtain ⟨hphase, hsame⟩ := runWord_idle hc hi hrun
  obtain ⟨hinputs, henv'⟩ := runWord_keeps_surroundings hrun
  rw [consumeFrames_of_nil (hsame.trans hout), quiet_iff, hinputs, henv']
  exact ⟨⟨hphase, hsame.trans hout, henv, hin⟩, rfl⟩

/-- Settles O54: a quiet state's word is no START (`quiet_presented`) and emits nothing
(`quiet_runWord`), reset leaves the agents, and their moves start nothing (`envQuiet_apply`). -/
theorem quietStaysQuiet : Obligations.QuietStaysQuiet := by
  intro s t hs h
  have hacc := quiet_accepting hs
  have hsame : (accepting s).env.taken = s.env.taken ∧ (accepting s).env.sent = s.env.sent := by
    rw [accepting_env]; exact ⟨rfl, rfl⟩
  rcases step_cases h with ⟨c, u, hc, hrun, rfl⟩ | ⟨_, rfl⟩ | ⟨ev, rest, hi, rfl⟩ | ⟨_, _, _, rfl⟩
  · obtain ⟨hquiet, henv⟩ := quiet_runWord hacc (quiet_presented hs hc) hrun
    rw [henv]
    exact ⟨hquiet, hsame⟩
  · obtain ⟨_, hout, henv, hin⟩ := (quiet_iff _).mp hacc
    exact ⟨(quiet_iff _).mpr ⟨rfl, hout, henv, hin⟩, hsame⟩
  · obtain ⟨hphase, hout, henv, hin⟩ := (quiet_iff s).mp hs
    rw [hi] at hin
    obtain ⟨hev, hrest⟩ := List.forall_mem_cons.mp hin
    exact ⟨(quiet_iff _).mpr ⟨hphase, hout, envQuiet_apply henv hev, hrest⟩,
      apply_keeps_messages s.env ev⟩
  · exact ⟨hacc, hsame⟩

/-! ### Runs -/

/-- A run where nothing is captured takes and transmits nothing. -/
theorem quiet_run {k : Nat} (hs : Quiet s) (h : Host.Core.run core k s = .next t) :
    Quiet t ∧ t.env.taken = s.env.taken ∧ t.env.sent = s.env.sent := by
  induction k generalizing s with
  | zero => cases h; exact ⟨hs, rfl, rfl⟩
  | succ k ih =>
    obtain ⟨u, hu⟩ := stepNeverStalls s
    rw [run_next hu] at h
    obtain ⟨hquiet, htaken, hsent⟩ := quietStaysQuiet s u hs hu
    obtain ⟨ht, htaken', hsent'⟩ := ih hquiet h
    exact ⟨ht, htaken'.trans htaken, hsent'.trans hsent⟩

theorem step_env {ev : EnvEvent} {rest : List Input} (hi : s.inputs = .env ev :: rest) :
    step s = .next { s with inputs := rest, env := s.env.apply ev } := by
  simp only [step, nextStep, hi]
  rfl

/-- Settles O51: the stop() leaves a quiet state (`envQuiet_controllerStop`), from which any run is
quiet (`quiet_run`). -/
theorem cancelledStartSendsNothing : Obligations.CancelledStartSendsNothing := by
  intro s t rest k hphase hout _ _ hissued hi hrest h
  rw [run_next (step_env hi)] at h
  have hquiet : Quiet { s with inputs := rest, env := s.env.apply .stopCall } :=
    (quiet_iff _).mpr ⟨hphase, hout, envQuiet_controllerStop hissued, hrest⟩
  obtain ⟨ht, htaken, hsent⟩ := quiet_run hquiet h
  obtain ⟨hstopTaken, hstopSent⟩ := apply_keeps_messages s.env .stopCall
  exact ⟨htaken.trans hstopTaken, hsent.trans hstopSent, ht.no_source, ht.ctrl_idle, ht.phase_idle,
    ht.no_start_issued⟩

end Sys2Proof.Proofs
end

section
/-! An audio callback's block runs as its PUSHB (spec/60_exceptions.md R155,
spec/30_encoding.md R70). -/

namespace Sys2Proof.Proofs

open Sys2Proof.Machine

variable {s t : State} {p : Sample}

/-- State s with another schedule, and with the given samples on their way to the block. -/
def delivering (s : State) (ins : List Input) (ss : List Sample) : State :=
  { s with inputs := ins, env := { s.env with captured := ss } }

/-- With nothing on its way only the schedule is replaced. -/
theorem delivering_nil (h : s.env.captured = []) (ins : List Input) :
    delivering s ins [] = { s with inputs := ins } := by
  rw [delivering, ← h]

/-- PUSH does the same whatever the schedule and the agents (R34). -/
theorem execPush_surroundings (h : execPush p s = .next t) (ins : List Input) (e : Env) :
    execPush p { s with inputs := ins, env := e } = .next { t with inputs := ins, env := e } := by
  rcases execPush_cases h with ⟨hi, rfl⟩ | ⟨ha, hc, rfl⟩ | ⟨ha, hc, rfl⟩
  · exact pushIgnoredInIdle p { t with inputs := ins, env := e } hi
  · exact execPush_completing (s := { s with inputs := ins, env := e }) p ha hc
  · exact execPush_advancing (s := { s with inputs := ins, env := e }) p ha hc

/-- The consumer takes the same messages whatever samples are on their way. -/
theorem consumeFrames_delivering (s : State) (ins : List Input) (ss : List Sample) :
    consumeFrames (delivering s ins ss) = delivering (consumeFrames s) ins ss := by
  simp only [consumeFrames_eq, delivering, foldl_take]

/-- A PUSH word runs alike under every schedule and with any samples on their way, and leaves the
outbox. -/
theorem push_delivering (p : Sample) (s : State) :
    ∃ t, t.env.outbox = s.env.outbox ∧ ∀ ins ss,
      handOff (runWord (encode (.push p)) (delivering s ins ss)) = .next (delivering t ins ss) := by
  obtain ⟨u, hx⟩ := exec_next (.push p) s
  obtain ⟨_, henv, _⟩ := exec_keeps_surroundings hx
  refine ⟨consumeFrames u, ?_, fun ins ss => ?_⟩
  · rw [consumeFrames_eq, foldl_take, henv]
  · have hpush : exec (.push p) (delivering s ins ss) = .next (delivering u ins ss) := by
      rw [delivering, delivering, henv]
      exact execPush_surroundings hx ins _
    rw [runWord_command (decode_encode rfl), hpush, handOff, consumeFrames_delivering]

/-- The oldest delivered sample runs as its PUSH word when no START waits. -/
theorem step_blockSample {ins : List Input} {ss : List Sample}
    (hstart : ∀ c ∈ s.env.outbox, isStartWord c = false) :
    step (delivering s (.blockSample :: ins) (p :: ss)) =
      handOff (runWord (encode (.push p)) (delivering s ins ss)) := by
  have hready : (delivering s ins (p :: ss)).env.readySample = some p :=
    readySample_eq_some.mpr ⟨hstart, rfl⟩
  show acceptInput .blockSample (delivering s ins (p :: ss)) = _
  rw [acceptInput, hready]
  rfl

/-- The samples on their way, accepted one by one, run as the PUSH words of their PUSHB. -/
theorem run_blockSamples (ss : List Sample) (rest : List Input)
    (hstart : ∀ c ∈ s.env.outbox, isStartWord c = false) :
    Host.Core.run core ss.length
      (delivering s (List.replicate ss.length .blockSample ++ rest) ss) =
    Host.Core.run core ss.length (delivering s ((pushb ss).map present ++ rest) []) := by
  induction ss generalizing s with
  | nil => rfl
  | cons p ss ih =>
    obtain ⟨t, hout, hpush⟩ := push_delivering p s
    have hblock := (step_blockSample (p := p) (ss := ss)
      (ins := List.replicate ss.length .blockSample ++ rest) hstart).trans (hpush _ _)
    have hword := (step_command (s := delivering s ((pushb (p :: ss)).map present ++ rest) [])
      (c := encode (.push p)) (rest := (pushb ss).map present ++ rest) rfl).trans (hpush _ [])
    exact (run_next hblock).trans ((ih (hout ▸ hstart)).trans (run_next hword).symm)

/-- Settles O53: the callback delivers its block (`deliverBlock_capturing`), whose samples run as
its PUSHB (`run_blockSamples`). -/
theorem callbackDeliversPushb : Obligations.CallbackDeliversPushb := by
  refine ⟨fun e ss h => deliverBlock_idle h ss, fun e ss h => deliverBlock_capturing h ss,
    fun s ss rest hctrl hcaptured hstart => ?_⟩
  have hblock : s.env.apply (.audioCallback ss) = { s.env with captured := ss } :=
    (deliverBlock_capturing hctrl ss).trans (by rw [hcaptured, List.nil_append])
  have hcallback (ins : List Input) :
      step { s with inputs := .env (.audioCallback ss) :: ins } = .next (delivering s ins ss) := by
    rw [step_env rfl, hblock]
    rfl
  rw [run_next (hcallback _), run_blockSamples ss rest hstart, delivering_nil hcaptured]

end Sys2Proof.Proofs
end

section
/-! Reset (spec/70_reset_and_hazards.md R170 to R173, spec/60_exceptions.md R136), waiting (R171),
and the words that come from elsewhere than CMD_IN (spec/20_memory.md R41, spec/60_exceptions.md
R155). -/

namespace Sys2Proof.Proofs

open Sys2Proof.Machine

variable {s : State} {rest : List Input}

/-! ### The state after reset -/

/-- Settles O36: the reset state's registers and agents, with R33's invariants from
`resetMeetsInvariants`. -/
theorem resetStateValues : Obligations.ResetStateValues := by
  obtain ⟨hsession, _⟩ := resetMeetsInvariants
  exact ⟨rfl, by decide, rfl, rfl, hsession, rfl, rfl⟩

/-! ### Waiting, and what a step accepts -/

/-- With nothing presented the block waits (R171). -/
theorem step_nil (hi : s.inputs = []) : step s = .next s := by
  simp only [step, nextStep, hi]

/-- A step accepts the oldest input presented, on the state with that input off the schedule. -/
theorem step_cons {x : Input} (hi : s.inputs = x :: rest) :
    step s = acceptInput x { s with inputs := rest } := by
  simp only [step, nextStep, hi]
  rfl

/-! ### Reset -/

/-- A reset's step is the reset, whatever word stands on CMD_IN (R136). -/
theorem step_reset {c : Option CmdWord} (hi : s.inputs = .reset c :: rest) :
    step s = .next (resetBlock { s with inputs := rest }) := by
  rw [step_cons hi, acceptInput]

/-- Settles O38: the step is the reset (`step_reset`), which writes the block's registers alone
(`resetBlock_eq`). -/
theorem resetWinsAndClears : Obligations.ResetWinsAndClears := by
  intro s c rest hi
  refine ⟨_, step_reset hi, ?_⟩
  simp only [resetBlock_eq, and_self]

/-! ### The controller's issued commands -/

/-- The oldest issued command runs as its word on CMD_IN does. -/
theorem step_issued {c : CmdWord} {cs : List CmdWord} (hi : s.inputs = .issued :: rest)
    (hout : s.env.outbox = c :: cs) :
    step s =
      step { s with inputs := .command c :: rest, env := { s.env with outbox := cs } } := by
  rw [step_cons hi, step_command rfl]
  simp only [acceptInput, hout]
  rfl

theorem step_issued_none (hi : s.inputs = .issued :: rest) (hout : s.env.outbox = []) :
    step s = .next { s with inputs := rest } := by
  rw [step_cons hi]
  simp only [acceptInput, hout]

/-! ### The delivered samples -/

/-- No sample is ready exactly when none is on its way or an issued START waits before it. -/
theorem readySample_eq_none {e : Env} :
    e.readySample = none ↔ e.captured = [] ∨ ∃ c ∈ e.outbox, isStartWord c = true := by
  unfold Env.readySample
  split
  · next h => exact ⟨fun _ => .inr (List.any_eq_true.mp h), fun _ => rfl⟩
  · next h =>
    rw [List.head?_eq_none_iff]
    exact ⟨.inl, fun hor => hor.resolve_right fun hstart => h (List.any_eq_true.mpr hstart)⟩

/-- The oldest delivered sample runs as its PUSH on CMD_IN does when no START waits. -/
theorem step_blockSample_eq_command {p : Sample} {ps : List Sample}
    (hi : s.inputs = .blockSample :: rest) (hcap : s.env.captured = p :: ps)
    (hstart : ∀ c ∈ s.env.outbox, isStartWord c = false) :
    step s = step { s with
      inputs := .command (encode (.push p)) :: rest
      env := { s.env with captured := ps } } := by
  have hs : delivering s (.blockSample :: rest) (p :: ps) = s := by
    rw [delivering, ← hi, ← hcap]
  have hstep := step_blockSample (p := p) (ins := rest) (ss := ps) hstart
  rw [hs] at hstep
  rw [hstep, step_command rfl]
  rfl

theorem step_blockSample_none (hi : s.inputs = .blockSample :: rest)
    (hnone : s.env.readySample = none) : step s = .next { s with inputs := rest } := by
  rw [step_cons hi]
  simp only [acceptInput, hnone]

/-! ### Byte-serial samples -/

theorem step_serialSample {a b : Byte} (hi : s.inputs = .serialSample a b :: rest) :
    step s = step { s with inputs := .command (encode (.push (serialSample a b))) :: rest } := by
  rw [step_cons hi, step_command rfl, acceptInput]

/-- The byte order is the machine's, not the sample's (R41). -/
theorem serialSample_order :
    (∀ a b : Byte, serialSample a b = a ++ b) ∨ (∀ a b : Byte, serialSample a b = b ++ a) := by
  unfold serialSample
  cases Config.sampleByteOrder with
  | little => exact .inr fun _ _ => rfl
  | big => exact .inl fun _ _ => rfl

/-! ### Every source of a word -/

/-- Settles O43: waiting (`step_nil`) and each source have their own lemmas, and
`readySample_eq_none` says when no delivered sample may be accepted. -/
theorem otherWordSources : Obligations.OtherWordSources := by
  refine ⟨fun _ => step_nil, fun _ _ _ _ => step_issued, fun _ _ => step_issued_none,
    fun _ _ _ _ => step_blockSample_eq_command, fun s rest hi hnone => ?_,
    fun _ _ _ _ => step_serialSample, serialSample_order⟩
  exact step_blockSample_none hi (readySample_eq_none.mpr hnone)

end Sys2Proof.Proofs
end
